-- ==== Sys2Proof/Word.lean ====
section
/-! DEFINITION. The words of the machine: an operation word is 30 bits (R120), a bus address 16 bits and a bus datum
8 bits (R10), a framebuffer pixel 15 bits (R34). -/

namespace Sys2Proof

/-- An operation word (R120): every operation of the block is one 30-bit word. -/
abbrev Word := BitVec 30

/-- A bus datum (R10). -/
abbrev Byte := BitVec 8

/-- A bus address (R10, R80). -/
abbrev Addr := BitVec 16

/-- A framebuffer pixel, 15 bits: red in 4:0, green in 9:5, blue in 14:10 (R34, R145). -/
abbrev Colour := BitVec 15

/-- A positive natural: the type R8 gives `SAMPLE_PERIOD`, whose value 0 U17 refuses. -/
abbrev PosNat := { n : Nat // 0 < n }

end Sys2Proof
end

