-- ==== Sys2Proof/Config.lean ====
section
/-! DEFINITION. What is fixed for one machine: the configuration record `CFG` of R8, as plain data held in the state, and
the FREE VALUES, constants with no body, for what the spec leaves open. -/

namespace Sys2Proof

/-- The two variants the document names (R2): `HW_MODE`. -/
inductive HwMode where
  | dmg
  | cgb
deriving DecidableEq, Repr

/-- A bus segment that can be blocked as a whole (R23, R88). -/
inductive Segment where
  | oam
  | general
deriving DecidableEq, Repr

/-- The handler ids of R124, 0 to 10 in this order. -/
inductive HandlerId where
  | cartridge
  | workRam
  | highRam
  | joypad
  | serial
  | timer
  | cpuRegs
  | apu
  | ppu
  | oamDma
  | hdma
deriving DecidableEq, Repr

/-- The APU's channels (R62): 1 square with sweep, 2 square, 3 wave table, 4 noise. -/
inductive Channel where
  | ch1
  | ch2
  | ch3
  | ch4
deriving DecidableEq, Repr

/-- Everything the bus reaches: one name for each register or region of R126, then the external handlers' regions of R84. -/
inductive Place where
  | vram | oam | wave
  | div | tima | tma | tac
  | nr10 | nr11 | nr12 | nr13 | nr14
  | nr21 | nr22 | nr23 | nr24
  | nr30 | nr31 | nr32 | nr33 | nr34
  | nr41 | nr42 | nr43 | nr44
  | nr50 | nr51 | nr52
  | lcdc | stat | scy | scx | ly | lyc | dma | bgp | obp0 | obp1 | wy | wx
  | vbk | hdma1 | hdma2 | hdma3 | hdma4 | hdma5
  | bcps | bcpd | ocps | ocpd | opri
  | cartRom | cartRam | wramFixed | wramBank | wramEcho | joyp | serialRegs | ifReg | speedSwitch | svbk | hram | ieReg
deriving DecidableEq, Repr

/-- `TICK_INTERLEAVE` (R441). -/
inductive TickInterleave where
  | perCycle
  | perGroup
deriving DecidableEq, Repr

/-- `GEN` (R395): the default generators of R396 to R399, or generators of which nothing is assumed but the interface. -/
inductive GenSource where
  | standard
  | supplied
deriving DecidableEq, Repr

/-- `RESET_PROFILE` (R8, R503): there is one. -/
inductive ResetProfile where
  | powerOn
deriving DecidableEq, Repr

/-- What the high-RAM handler is (R167 makes it a parameter): plain memory, as its name says, or a handler of which nothing
is assumed (log 8). -/
inductive HighRamKind where
  | memory
  | opaqueHandler
deriving DecidableEq, Repr

/-- The eight logical buttons (R466). -/
inductive Button where
  | up
  | down
  | left
  | right
  | a
  | b
  | start
  | select
deriving DecidableEq, Repr

/-- One range of `segment_of` (R88): addresses `lo` to `hi` inclusive lie in `seg`. -/
structure SegmentRange where
  lo  : Nat
  hi  : Nat
  seg : Segment
deriving DecidableEq, Repr

/-- `DMG_SHADE` (R8): the 15-bit value of each of the four shades. -/
structure ShadeTable where
  shade0 : Colour
  shade1 : Colour
  shade2 : Colour
  shade3 : Colour
deriving DecidableEq, Repr

/-- `MUTE[1..4]` (R8, R411, R485): the host's debug switches. -/
structure MuteSwitches where
  mute1 : Bool
  mute2 : Bool
  mute3 : Bool
  mute4 : Bool
deriving DecidableEq, Repr

/-- The configuration record `CFG` of R8, as plain data. `ADDR_*` is the map of R84 and R126 with the entries of
`baseOverride` put in place of the defaults. The constants R9 fixes are no fields. -/
structure Config where
  hwMode            : HwMode
  baseOverride      : List (Place × Addr)
  blockedReadValue  : Byte
  extBlockQuirk     : Bool
  unmappedReadValue : Byte
  segments          : List SegmentRange
  tickInterleave    : TickInterleave
  /-- `PUSH_SLEEP = 1`. -/
  pushSleep         : Bool
  ppuModeAccessLock : Bool
  dmgShade          : ShadeTable
  timaReloadHold    : Nat
  tmaForwardInHold  : Bool
  sweepSecondCheck  : Bool
  gen               : GenSource
  mute              : MuteSwitches
  /-- `N`, a positive natural (R8, R410, U17). -/
  samplePeriod      : PosNat
  /-- `DAC`: entry `s` for a sample `s` of 0..15. -/
  dac               : List Rat
  /-- `VOL`: entry `v` for a master volume `v` of 0..7. -/
  vol               : List Rat
  /-- Whether a serial device is attached (R447: a model that leaves it out makes `TICK_SERIAL` a no-op). -/
  serialAttached    : Bool
  /-- The high-RAM handler (R167). -/
  highRam           : HighRamKind
  resetProfile      : ResetProfile
deriving DecidableEq, Repr

/-- The parameters at the defaults of R8. `SAMPLE_PERIOD` has no default there (DESIGN CHOICE, log 6), nor have the
attachment of a serial device (DESIGN CHOICE, log 7) and the kind of high RAM (DESIGN CHOICE, log 8). -/
def Config.default : Config where
  hwMode := .cgb
  baseOverride := []
  blockedReadValue := 0xFF#8
  extBlockQuirk := false
  unmappedReadValue := 0xFF#8
  segments := [⟨0xFE00, 0xFE9F, .oam⟩, ⟨0x0000, 0xFDFF, .general⟩]
  tickInterleave := .perCycle
  pushSleep := true
  ppuModeAccessLock := false
  dmgShade := ⟨0x7FFF#15, 0x56B5#15, 0x294A#15, 0x0000#15⟩
  timaReloadHold := 4
  tmaForwardInHold := false
  sweepSecondCheck := false
  gen := .standard
  mute := ⟨false, false, false, false⟩
  samplePeriod := ⟨95, by decide⟩
  dac := (List.range 16).map fun s => (s : Rat) / 15
  vol := (List.range 8).map fun v => ((v : Rat) + 1) / 8
  serialAttached := false
  highRam := .memory
  resetProfile := .powerOn

/-- The memories whose content after reset is a free draw (R501), and the external RAM. -/
inductive Region where
  | vram
  | oam
  | bgPal
  | objPal
  | wave
  | workRam
  | highRam
deriving DecidableEq, Repr

/-- FREE VALUE (R501: "unspecified" is a free draw; log 1). The byte that cell `i` of region `r` holds after the `draw`-th
reset until it is written. -/
opaque Config.freeByte : (r : Region) → (draw : Nat) → (i : Nat) → Byte

/-- FREE VALUE (R34, R501; log 1). The pixel that cell `i` of the framebuffer holds after the `draw`-th reset. -/
opaque Config.freePixel : (draw : Nat) → (i : Nat) → Colour

/-- FREE VALUE (R167, U19; log 8). What an opaque external handler, in the state the token stands for, returns at an
address. -/
opaque Config.extRead : HandlerId → (token : Nat) → Addr → Byte

/-- FREE VALUE (R167, U19; log 8). The state of an opaque external handler after a write. -/
opaque Config.extWrite : HandlerId → (token : Nat) → Addr → Byte → Nat

/-- FREE VALUE (R466; log 28). The joypad's state after a button is pressed (`true`) or released. -/
opaque Config.joypadButton : (token : Nat) → Button → (press : Bool) → Nat

/-- FREE VALUE (R466; log 28). Whether pressing a button that is up newly asserts a previously-unselected row, with the
joypad in the state the token stands for. -/
opaque Config.joypadAsserts : (token : Nat) → Button → Bool

/-- FREE VALUE (R86 says what a write to the work-RAM bank register selects, not what a read returns; log 9). -/
opaque Config.svbkRead : Byte → Byte

/-- FREE VALUE (R476; log 10). Whether the speed-switch register, in the state the token stands for, requests a switch. -/
opaque Config.speedSwitchRequested : (token : Nat) → Bool

/-- FREE VALUE (R447; log 7). The serial device's state after one tick. -/
opaque Config.serialTick : (token : Nat) → Nat

/-- FREE VALUE (R447; log 7). Whether a tick of the serial device in this state requests interrupt 3. -/
opaque Config.serialIrq : (token : Nat) → Bool

/-- FREE VALUE (R395; log 11). `GenStep` of a supplied generator: it may read the channel's registers, its volume and the
wave table. -/
opaque Config.genStep : Channel → (regs : List Byte) → (vol : BitVec 4) → (wave : List Byte) → (token : Nat) → Nat

/-- FREE VALUE (R395; log 11). `GenTrigger` of a supplied generator. -/
opaque Config.genTrigger : Channel → (regs : List Byte) → (vol : BitVec 4) → (wave : List Byte) → (token : Nat) → Nat

/-- FREE VALUE (R395; log 11). `GenSample` of a supplied generator: 0..15, as R395 requires, by its type. -/
opaque Config.genSample : Channel → (regs : List Byte) → (vol : BitVec 4) → (wave : List Byte) → (token : Nat) → BitVec 4

/-- FREE VALUE (R418; log 12). `TO_FLOAT`, as the exact value of the float a sample is converted to. -/
opaque Config.toFloat : Rat → Rat

end Sys2Proof
end

