-- ==== Sys2Proof/Machine/AddressMap.lean ====
section
/-! DEFINITION. The address map: the claimed set of every handler and the address and size of every register and region
(R84, R124, R126), with the segments of R88. -/

namespace Sys2Proof

/-- The number of addresses a place covers (R84, R126). -/
def Place.size : Place → Nat
  | .vram => 0x2000
  | .oam => 0xA0
  | .wave => 0x10
  | .cartRom => 0x8000
  | .cartRam => 0x2000
  | .wramFixed => 0x1000
  | .wramBank => 0x1000
  | .wramEcho => 0x1E00
  | .serialRegs => 2
  | .hram => 0x7F
  | _ => 1

/-- The default of `ADDR_<name>`, the first address of the place (R84, R126). -/
def Place.defaultBase : Place → Addr
  | .vram => 0x8000#16
  | .oam => 0xFE00#16
  | .wave => 0xFF30#16
  | .div => 0xFF04#16
  | .tima => 0xFF05#16
  | .tma => 0xFF06#16
  | .tac => 0xFF07#16
  | .nr10 => 0xFF10#16
  | .nr11 => 0xFF11#16
  | .nr12 => 0xFF12#16
  | .nr13 => 0xFF13#16
  | .nr14 => 0xFF14#16
  | .nr21 => 0xFF16#16
  | .nr22 => 0xFF17#16
  | .nr23 => 0xFF18#16
  | .nr24 => 0xFF19#16
  | .nr30 => 0xFF1A#16
  | .nr31 => 0xFF1B#16
  | .nr32 => 0xFF1C#16
  | .nr33 => 0xFF1D#16
  | .nr34 => 0xFF1E#16
  | .nr41 => 0xFF20#16
  | .nr42 => 0xFF21#16
  | .nr43 => 0xFF22#16
  | .nr44 => 0xFF23#16
  | .nr50 => 0xFF24#16
  | .nr51 => 0xFF25#16
  | .nr52 => 0xFF26#16
  | .lcdc => 0xFF40#16
  | .stat => 0xFF41#16
  | .scy => 0xFF42#16
  | .scx => 0xFF43#16
  | .ly => 0xFF44#16
  | .lyc => 0xFF45#16
  | .dma => 0xFF46#16
  | .bgp => 0xFF47#16
  | .obp0 => 0xFF48#16
  | .obp1 => 0xFF49#16
  | .wy => 0xFF4A#16
  | .wx => 0xFF4B#16
  | .vbk => 0xFF4F#16
  | .hdma1 => 0xFF51#16
  | .hdma2 => 0xFF52#16
  | .hdma3 => 0xFF53#16
  | .hdma4 => 0xFF54#16
  | .hdma5 => 0xFF55#16
  | .bcps => 0xFF68#16
  | .bcpd => 0xFF69#16
  | .ocps => 0xFF6A#16
  | .ocpd => 0xFF6B#16
  | .opri => 0xFF6C#16
  | .cartRom => 0x0000#16
  | .cartRam => 0xA000#16
  | .wramFixed => 0xC000#16
  | .wramBank => 0xD000#16
  | .wramEcho => 0xE000#16
  | .joyp => 0xFF00#16
  | .serialRegs => 0xFF01#16
  | .ifReg => 0xFF0F#16
  | .speedSwitch => 0xFF4D#16
  | .svbk => 0xFF70#16
  | .hram => 0xFF80#16
  | .ieReg => 0xFFFF#16

/-- The places marked (CGB) in R84 and R126: in DMG mode no handler claims them (R208). -/
def Place.cgbOnly : Place → Bool
  | .vbk | .hdma1 | .hdma2 | .hdma3 | .hdma4 | .hdma5 | .bcps | .bcpd | .ocps | .ocpd | .opri | .svbk => true
  | _ => false

/-- The handlers in the order of their ids (R124). -/
def HandlerId.all : List HandlerId :=
  [.cartridge, .workRam, .highRam, .joypad, .serial, .timer, .cpuRegs, .apu, .ppu, .oamDma, .hdma]

/-- The id of a handler in an operation word (R124). -/
def HandlerId.toBits : HandlerId → BitVec 4
  | .cartridge => 0#4
  | .workRam => 1#4
  | .highRam => 2#4
  | .joypad => 3#4
  | .serial => 4#4
  | .timer => 5#4
  | .cpuRegs => 6#4
  | .apu => 7#4
  | .ppu => 8#4
  | .oamDma => 9#4
  | .hdma => 10#4

/-- The handler of an id; ids 11 to 15 are unused (R124). -/
def HandlerId.ofBits (h : BitVec 4) : Option HandlerId :=
  HandlerId.all.find? fun k => k.toBits == h

/-- What a handler claims (R84, the handler column of R126), before the (CGB) places are taken out in DMG mode. -/
def HandlerId.places : HandlerId → List Place
  | .cartridge => [.cartRom, .cartRam]
  | .workRam => [.wramFixed, .wramBank, .wramEcho, .svbk]
  | .highRam => [.hram]
  | .joypad => [.joyp]
  | .serial => [.serialRegs]
  | .timer => [.div, .tima, .tma, .tac]
  | .cpuRegs => [.ifReg, .speedSwitch, .ieReg]
  | .apu => [.wave, .nr10, .nr11, .nr12, .nr13, .nr14, .nr21, .nr22, .nr23, .nr24, .nr30, .nr31, .nr32, .nr33, .nr34,
      .nr41, .nr42, .nr43, .nr44, .nr50, .nr51, .nr52]
  | .ppu => [.vram, .oam, .lcdc, .stat, .scy, .scx, .ly, .lyc, .bgp, .obp0, .obp1, .wy, .wx, .vbk, .bcps, .bcpd, .ocps,
      .ocpd, .opri]
  | .oamDma => [.dma]
  | .hdma => [.hdma1, .hdma2, .hdma3, .hdma4, .hdma5]

/-- The places that have rows of their own in the operation table (R126); the regions stand first. -/
def Place.inTable : List Place :=
  [.vram, .oam, .wave, .div, .tima, .tma, .tac, .nr10, .nr11, .nr12, .nr13, .nr14, .nr21, .nr22, .nr23, .nr24, .nr30,
   .nr31, .nr32, .nr33, .nr34, .nr41, .nr42, .nr43, .nr44, .nr50, .nr51, .nr52, .lcdc, .stat, .scy, .scx, .ly, .lyc,
   .dma, .bgp, .obp0, .obp1, .wy, .wx, .vbk, .hdma1, .hdma2, .hdma3, .hdma4, .hdma5, .bcps, .bcpd, .ocps, .ocpd, .opri]

/-- Whether `size` addresses from `base` on hold `a`. -/
def covers (base : Addr) (size : Nat) (a : Addr) : Bool :=
  decide (base.toNat ≤ a.toNat) && decide (a.toNat < base.toNat + size)

/-- The table's row for a bus address, by the default map (R126). -/
def tablePlaceAt (a : Addr) : Option Place :=
  Place.inTable.find? fun p => covers p.defaultBase p.size a

/-- The bus address `off` addresses into a place, by the default map (R126). -/
def placeAddr (p : Place) (off : Nat) : Addr := p.defaultBase + BitVec.ofNat 16 off

/-- `ADDR_<name>` in this configuration (R84). -/
def Config.base (c : Config) (p : Place) : Addr :=
  match c.baseOverride.find? (fun e => e.1 == p) with
  | some e => e.2
  | none => p.defaultBase

/-- Whether a place exists in this configuration (R84, R208). -/
def Config.present (c : Config) (p : Place) : Bool :=
  !(p.cgbOnly && c.hwMode == .dmg)

/-- The claimed set of a handler, as places (R83, R124). -/
def Config.claimedPlaces (c : Config) (h : HandlerId) : List Place :=
  h.places.filter c.present

/-- The handlers present (R168, R510): all of them, but the HDMA engine in CGB mode only. -/
def Config.presentHandlers (c : Config) : List HandlerId :=
  HandlerId.all.filter fun h => !(h == .hdma && c.hwMode == .dmg)

/-- The place of handler `h` an address belongs to: none if `a` lies outside the claimed set of `h`. Where the configuration
puts two places of one handler at one address, the first in the order of `HandlerId.places` answers: the spec says nothing of
it (R8, R126), and `REGISTER` looks at other handlers' claims only (R161). DESIGN CHOICE, log 32, unsafe. -/
def Config.placeAt (c : Config) (h : HandlerId) (a : Addr) : Option Place :=
  (c.claimedPlaces h).find? fun p => covers (c.base p) p.size a

/-- `a in claims(h)` (R161). -/
def Config.claims (c : Config) (h : HandlerId) (a : Addr) : Bool :=
  (c.placeAt h a).isSome

/-- `segment_of` (R88). -/
def Config.segmentOf (c : Config) (a : Addr) : Option Segment :=
  (c.segments.find? fun r => decide (r.lo ≤ a.toNat) && decide (a.toNat ≤ r.hi)).map (·.seg)

end Sys2Proof
end

