-- ==== Sys2Proof/Syntax.lean ====
section
/-! DEFINITION. The operations of the block: one constructor for each mnemonic of spec/opcode_table.json (R120 to R132).
`hb` is honor_block (R121). A row of a register stands for the bus words whose address is the register's default address
(R126); what such a word reaches is decided by the owner map, R127. -/

namespace Sys2Proof

/-- Why a word is no operation (R129). -/
inductive Reject where
  /-- Class 6 or 8 to 15. -/
  | reservedClass (cls : BitVec 4)
  /-- Class 7 with `dev` 6 or 7. -/
  | reservedDevice (dev : BitVec 3)
  /-- `REGISTER` or `UNREGISTER` with `hid` above 10. -/
  | reservedHandler (hid : BitVec 4)
  /-- A non-zero bit in a field that the format of this class says is zero. -/
  | nonzeroField (cls : BitVec 4)
  /-- Wider than the 30 bits of an operation word (R120, R130). -/
  | tooWide
deriving DecidableEq, Repr

/-- An operation word, decoded. -/
inductive Instr where
  /-- `RD` (R163). -/
  | rd (hb : Bool) (addr : Addr)
  /-- `WR` (R164). -/
  | wr (hb : Bool) (addr : Addr) (v : Byte)
  /-- `RD_VRAM` (R203). -/
  | rdVram (hb : Bool) (off : BitVec 13)
  /-- `WR_VRAM` (R203). -/
  | wrVram (hb : Bool) (off : BitVec 13) (v : Byte)
  /-- `RD_OAM` (R205). -/
  | rdOam (hb : Bool) (i : Byte)
  /-- `WR_OAM` (R205). -/
  | wrOam (hb : Bool) (i : Byte) (v : Byte)
  /-- `RD_WAVE` (R424). -/
  | rdWave (hb : Bool) (i : BitVec 4)
  /-- `WR_WAVE` (R424). -/
  | wrWave (hb : Bool) (i : BitVec 4) (v : Byte)
  /-- `RD_DIV` (R334). -/
  | rdDiv (hb : Bool)
  /-- `WR_DIV` (R335). -/
  | wrDiv (hb : Bool) (v : Byte)
  /-- `RD_TIMA` (R336). -/
  | rdTima (hb : Bool)
  /-- `WR_TIMA` (R337). -/
  | wrTima (hb : Bool) (v : Byte)
  /-- `RD_TMA` (R340). -/
  | rdTma (hb : Bool)
  /-- `WR_TMA` (R340). -/
  | wrTma (hb : Bool) (v : Byte)
  /-- `RD_TAC` (R342). -/
  | rdTac (hb : Bool)
  /-- `WR_TAC` (R341). -/
  | wrTac (hb : Bool) (v : Byte)
  /-- `RD_NR10` (R420). -/
  | rdNr10 (hb : Bool)
  /-- `WR_NR10` (R383). -/
  | wrNr10 (hb : Bool) (v : Byte)
  /-- `RD_NR11` (R420). -/
  | rdNr11 (hb : Bool)
  /-- `WR_NR11` (R366). -/
  | wrNr11 (hb : Bool) (v : Byte)
  /-- `RD_NR12` (R420). -/
  | rdNr12 (hb : Bool)
  /-- `WR_NR12` (R368). -/
  | wrNr12 (hb : Bool) (v : Byte)
  /-- `RD_NR13` (R420). -/
  | rdNr13 (hb : Bool)
  /-- `WR_NR13` (R369). -/
  | wrNr13 (hb : Bool) (v : Byte)
  /-- `RD_NR14` (R420). -/
  | rdNr14 (hb : Bool)
  /-- `WR_NR14` (R370). -/
  | wrNr14 (hb : Bool) (v : Byte)
  /-- `RD_NR21` (R420). -/
  | rdNr21 (hb : Bool)
  /-- `WR_NR21` (R366). -/
  | wrNr21 (hb : Bool) (v : Byte)
  /-- `RD_NR22` (R420). -/
  | rdNr22 (hb : Bool)
  /-- `WR_NR22` (R368). -/
  | wrNr22 (hb : Bool) (v : Byte)
  /-- `RD_NR23` (R420). -/
  | rdNr23 (hb : Bool)
  /-- `WR_NR23` (R369). -/
  | wrNr23 (hb : Bool) (v : Byte)
  /-- `RD_NR24` (R420). -/
  | rdNr24 (hb : Bool)
  /-- `WR_NR24` (R370). -/
  | wrNr24 (hb : Bool) (v : Byte)
  /-- `RD_NR30` (R420). -/
  | rdNr30 (hb : Bool)
  /-- `WR_NR30` (R368). -/
  | wrNr30 (hb : Bool) (v : Byte)
  /-- `RD_NR31` (R420). -/
  | rdNr31 (hb : Bool)
  /-- `WR_NR31` (R366). -/
  | wrNr31 (hb : Bool) (v : Byte)
  /-- `RD_NR32` (R420). -/
  | rdNr32 (hb : Bool)
  /-- `WR_NR32` (R369). -/
  | wrNr32 (hb : Bool) (v : Byte)
  /-- `RD_NR33` (R420). -/
  | rdNr33 (hb : Bool)
  /-- `WR_NR33` (R369). -/
  | wrNr33 (hb : Bool) (v : Byte)
  /-- `RD_NR34` (R420). -/
  | rdNr34 (hb : Bool)
  /-- `WR_NR34` (R370). -/
  | wrNr34 (hb : Bool) (v : Byte)
  /-- `RD_NR41` (R420). -/
  | rdNr41 (hb : Bool)
  /-- `WR_NR41` (R366). -/
  | wrNr41 (hb : Bool) (v : Byte)
  /-- `RD_NR42` (R420). -/
  | rdNr42 (hb : Bool)
  /-- `WR_NR42` (R368). -/
  | wrNr42 (hb : Bool) (v : Byte)
  /-- `RD_NR43` (R420). -/
  | rdNr43 (hb : Bool)
  /-- `WR_NR43` (R369). -/
  | wrNr43 (hb : Bool) (v : Byte)
  /-- `RD_NR44` (R420). -/
  | rdNr44 (hb : Bool)
  /-- `WR_NR44` (R370). -/
  | wrNr44 (hb : Bool) (v : Byte)
  /-- `RD_NR50` (R420). -/
  | rdNr50 (hb : Bool)
  /-- `WR_NR50` (R421). -/
  | wrNr50 (hb : Bool) (v : Byte)
  /-- `RD_NR51` (R420). -/
  | rdNr51 (hb : Bool)
  /-- `WR_NR51` (R421). -/
  | wrNr51 (hb : Bool) (v : Byte)
  /-- `RD_NR52` (R422). -/
  | rdNr52 (hb : Bool)
  /-- `WR_NR52` (R423). -/
  | wrNr52 (hb : Bool) (v : Byte)
  /-- `RD_LCDC` (R195). -/
  | rdLcdc (hb : Bool)
  /-- `WR_LCDC` (R195). -/
  | wrLcdc (hb : Bool) (v : Byte)
  /-- `RD_STAT` (R198). -/
  | rdStat (hb : Bool)
  /-- `WR_STAT` (R199). -/
  | wrStat (hb : Bool) (v : Byte)
  /-- `RD_SCY` (R202). -/
  | rdScy (hb : Bool)
  /-- `WR_SCY` (R202). -/
  | wrScy (hb : Bool) (v : Byte)
  /-- `RD_SCX` (R202). -/
  | rdScx (hb : Bool)
  /-- `WR_SCX` (R202). -/
  | wrScx (hb : Bool) (v : Byte)
  /-- `RD_LY` (R200). -/
  | rdLy (hb : Bool)
  /-- `WR_LY` (R200). -/
  | wrLy (hb : Bool) (v : Byte)
  /-- `RD_LYC` (R201). -/
  | rdLyc (hb : Bool)
  /-- `WR_LYC` (R201). -/
  | wrLyc (hb : Bool) (v : Byte)
  /-- `RD_DMA` (R283). -/
  | rdDma (hb : Bool)
  /-- `WR_DMA` (R282). -/
  | wrDma (hb : Bool) (v : Byte)
  /-- `RD_BGP` (R202). -/
  | rdBgp (hb : Bool)
  /-- `WR_BGP` (R202). -/
  | wrBgp (hb : Bool) (v : Byte)
  /-- `RD_OBP0` (R202). -/
  | rdObp0 (hb : Bool)
  /-- `WR_OBP0` (R202). -/
  | wrObp0 (hb : Bool) (v : Byte)
  /-- `RD_OBP1` (R202). -/
  | rdObp1 (hb : Bool)
  /-- `WR_OBP1` (R202). -/
  | wrObp1 (hb : Bool) (v : Byte)
  /-- `RD_WY` (R202). -/
  | rdWy (hb : Bool)
  /-- `WR_WY` (R202). -/
  | wrWy (hb : Bool) (v : Byte)
  /-- `RD_WX` (R202). -/
  | rdWx (hb : Bool)
  /-- `WR_WX` (R202). -/
  | wrWx (hb : Bool) (v : Byte)
  /-- `RD_VBK` (R203). -/
  | rdVbk (hb : Bool)
  /-- `WR_VBK` (R203). -/
  | wrVbk (hb : Bool) (v : Byte)
  /-- `RD_HDMA1` (R303). -/
  | rdHdma1 (hb : Bool)
  /-- `WR_HDMA1` (R303). -/
  | wrHdma1 (hb : Bool) (v : Byte)
  /-- `RD_HDMA2` (R303). -/
  | rdHdma2 (hb : Bool)
  /-- `WR_HDMA2` (R303). -/
  | wrHdma2 (hb : Bool) (v : Byte)
  /-- `RD_HDMA3` (R303). -/
  | rdHdma3 (hb : Bool)
  /-- `WR_HDMA3` (R303). -/
  | wrHdma3 (hb : Bool) (v : Byte)
  /-- `RD_HDMA4` (R303). -/
  | rdHdma4 (hb : Bool)
  /-- `WR_HDMA4` (R303). -/
  | wrHdma4 (hb : Bool) (v : Byte)
  /-- `RD_HDMA5` (R311). -/
  | rdHdma5 (hb : Bool)
  /-- `WR_HDMA5` (R305). -/
  | wrHdma5 (hb : Bool) (v : Byte)
  /-- `RD_BCPS` (R206). -/
  | rdBcps (hb : Bool)
  /-- `WR_BCPS` (R206). -/
  | wrBcps (hb : Bool) (v : Byte)
  /-- `RD_BCPD` (R207). -/
  | rdBcpd (hb : Bool)
  /-- `WR_BCPD` (R207). -/
  | wrBcpd (hb : Bool) (v : Byte)
  /-- `RD_OCPS` (R206). -/
  | rdOcps (hb : Bool)
  /-- `WR_OCPS` (R206). -/
  | wrOcps (hb : Bool) (v : Byte)
  /-- `RD_OCPD` (R207). -/
  | rdOcpd (hb : Bool)
  /-- `WR_OCPD` (R207). -/
  | wrOcpd (hb : Bool) (v : Byte)
  /-- `RD_OPRI` (R209). -/
  | rdOpri (hb : Bool)
  /-- `WR_OPRI` (R209). -/
  | wrOpri (hb : Bool) (v : Byte)
  /-- `IOTICK` (R440). -/
  | iotick (cycles : BitVec 16)
  /-- `IOTICK2` (R440). -/
  | iotick2 (cycles : BitVec 16)
  /-- `BLOCK` (R165). -/
  | block (seg : Segment) (val : Bool)
  /-- `REGISTER` (R161). -/
  | register (hid : HandlerId)
  /-- `UNREGISTER` (R162). -/
  | unregister (hid : HandlerId)
  /-- `RESET` (R500). -/
  | reset
  /-- `TICK_TIMER` (R333). -/
  | tickTimer
  /-- `TICK_SERIAL` (R447). -/
  | tickSerial
  /-- `TICK_DMA` (R284). -/
  | tickDma
  /-- `TICK_PPU` (R183). -/
  | tickPpu
  /-- `TICK_APU` (R361). -/
  | tickApu
  /-- `TICK_HDMA` (R312). -/
  | tickHdma
deriving DecidableEq, Repr

end Sys2Proof
end

