-- ==== Sys2Proof/WellFormed.lean ====
section
/-! DEFINITION. The checks an operation must pass to be one the decoder can answer: the generic `RD` and `WR` stand for the
addresses that have no row of their own, and an OAM index is below 160 (R126, R141). Every other operand is held to its
range by its type. -/

namespace Sys2Proof

/-- The address has no row of its own in the operation table (R126). -/
def genericAddr (a : Addr) : Bool := (tablePlaceAt a).isNone

/-- The OAM index is one of 0..159 (R28). -/
def oamIndexOk (i : Byte) : Bool := decide (i.toNat < 0xA0)

/-- Well-formedness of an operation. -/
def Instr.wf : Instr → Bool
  | .rd _ addr => genericAddr addr
  | .wr _ addr _ => genericAddr addr
  | .rdOam _ i => oamIndexOk i
  | .wrOam _ i _ => oamIndexOk i
  | .rdVram _ _ => true
  | .wrVram _ _ _ => true
  | .rdWave _ _ => true
  | .wrWave _ _ _ => true
  | .rdDiv _ => true
  | .wrDiv _ _ => true
  | .rdTima _ => true
  | .wrTima _ _ => true
  | .rdTma _ => true
  | .wrTma _ _ => true
  | .rdTac _ => true
  | .wrTac _ _ => true
  | .rdNr10 _ => true
  | .wrNr10 _ _ => true
  | .rdNr11 _ => true
  | .wrNr11 _ _ => true
  | .rdNr12 _ => true
  | .wrNr12 _ _ => true
  | .rdNr13 _ => true
  | .wrNr13 _ _ => true
  | .rdNr14 _ => true
  | .wrNr14 _ _ => true
  | .rdNr21 _ => true
  | .wrNr21 _ _ => true
  | .rdNr22 _ => true
  | .wrNr22 _ _ => true
  | .rdNr23 _ => true
  | .wrNr23 _ _ => true
  | .rdNr24 _ => true
  | .wrNr24 _ _ => true
  | .rdNr30 _ => true
  | .wrNr30 _ _ => true
  | .rdNr31 _ => true
  | .wrNr31 _ _ => true
  | .rdNr32 _ => true
  | .wrNr32 _ _ => true
  | .rdNr33 _ => true
  | .wrNr33 _ _ => true
  | .rdNr34 _ => true
  | .wrNr34 _ _ => true
  | .rdNr41 _ => true
  | .wrNr41 _ _ => true
  | .rdNr42 _ => true
  | .wrNr42 _ _ => true
  | .rdNr43 _ => true
  | .wrNr43 _ _ => true
  | .rdNr44 _ => true
  | .wrNr44 _ _ => true
  | .rdNr50 _ => true
  | .wrNr50 _ _ => true
  | .rdNr51 _ => true
  | .wrNr51 _ _ => true
  | .rdNr52 _ => true
  | .wrNr52 _ _ => true
  | .rdLcdc _ => true
  | .wrLcdc _ _ => true
  | .rdStat _ => true
  | .wrStat _ _ => true
  | .rdScy _ => true
  | .wrScy _ _ => true
  | .rdScx _ => true
  | .wrScx _ _ => true
  | .rdLy _ => true
  | .wrLy _ _ => true
  | .rdLyc _ => true
  | .wrLyc _ _ => true
  | .rdDma _ => true
  | .wrDma _ _ => true
  | .rdBgp _ => true
  | .wrBgp _ _ => true
  | .rdObp0 _ => true
  | .wrObp0 _ _ => true
  | .rdObp1 _ => true
  | .wrObp1 _ _ => true
  | .rdWy _ => true
  | .wrWy _ _ => true
  | .rdWx _ => true
  | .wrWx _ _ => true
  | .rdVbk _ => true
  | .wrVbk _ _ => true
  | .rdHdma1 _ => true
  | .wrHdma1 _ _ => true
  | .rdHdma2 _ => true
  | .wrHdma2 _ _ => true
  | .rdHdma3 _ => true
  | .wrHdma3 _ _ => true
  | .rdHdma4 _ => true
  | .wrHdma4 _ _ => true
  | .rdHdma5 _ => true
  | .wrHdma5 _ _ => true
  | .rdBcps _ => true
  | .wrBcps _ _ => true
  | .rdBcpd _ => true
  | .wrBcpd _ _ => true
  | .rdOcps _ => true
  | .wrOcps _ _ => true
  | .rdOcpd _ => true
  | .wrOcpd _ _ => true
  | .rdOpri _ => true
  | .wrOpri _ _ => true
  | .iotick _ => true
  | .iotick2 _ => true
  | .block _ _ => true
  | .register _ => true
  | .unregister _ => true
  | .reset => true
  | .tickTimer => true
  | .tickSerial => true
  | .tickDma => true
  | .tickPpu => true
  | .tickApu => true
  | .tickHdma => true

end Sys2Proof
end

