-- ==== Sys2Proof/Decode.lean ====
section
/-! DEFINITION. The decoder of operation words (R120 to R130), total, with every reserved word refused by name (R129), and
after it the encoder. -/

namespace Sys2Proof

/-- The class of a word, bits 29:26 (R120). -/
def wordClass (w : Word) : BitVec 4 := w.extractLsb' 26 4

/-- Bit 25 of a `BUS` word, honor_block (R121). -/
def wordHb (w : Word) : Bool := w.getLsbD 25

/-- Bit 24 of a `BUS` word: 0 read, 1 write (R121). -/
def wordRw (w : Word) : Bool := w.getLsbD 24

/-- Bits 23:8 of a `BUS` word, the bus address (R121). -/
def wordAddr (w : Word) : Addr := w.extractLsb' 8 16

/-- Bits 7:0 of a `BUS` word, the byte written (R121). -/
def wordData (w : Word) : Byte := w.extractLsb' 0 8

/-- The offset of an address inside a place, by the default map. -/
def tableOffset (p : Place) (a : Addr) : Nat := a.toNat - p.defaultBase.toNat

/-- The read row of a place (R126); a place without a row is read by the generic `RD`. -/
def readInstr (p : Place) (hb : Bool) (a : Addr) : Instr :=
  match p with
  | .vram => .rdVram hb (BitVec.ofNat 13 (tableOffset .vram a))
  | .oam => .rdOam hb (BitVec.ofNat 8 (tableOffset .oam a))
  | .wave => .rdWave hb (BitVec.ofNat 4 (tableOffset .wave a))
  | .div => .rdDiv hb
  | .tima => .rdTima hb
  | .tma => .rdTma hb
  | .tac => .rdTac hb
  | .nr10 => .rdNr10 hb
  | .nr11 => .rdNr11 hb
  | .nr12 => .rdNr12 hb
  | .nr13 => .rdNr13 hb
  | .nr14 => .rdNr14 hb
  | .nr21 => .rdNr21 hb
  | .nr22 => .rdNr22 hb
  | .nr23 => .rdNr23 hb
  | .nr24 => .rdNr24 hb
  | .nr30 => .rdNr30 hb
  | .nr31 => .rdNr31 hb
  | .nr32 => .rdNr32 hb
  | .nr33 => .rdNr33 hb
  | .nr34 => .rdNr34 hb
  | .nr41 => .rdNr41 hb
  | .nr42 => .rdNr42 hb
  | .nr43 => .rdNr43 hb
  | .nr44 => .rdNr44 hb
  | .nr50 => .rdNr50 hb
  | .nr51 => .rdNr51 hb
  | .nr52 => .rdNr52 hb
  | .lcdc => .rdLcdc hb
  | .stat => .rdStat hb
  | .scy => .rdScy hb
  | .scx => .rdScx hb
  | .ly => .rdLy hb
  | .lyc => .rdLyc hb
  | .dma => .rdDma hb
  | .bgp => .rdBgp hb
  | .obp0 => .rdObp0 hb
  | .obp1 => .rdObp1 hb
  | .wy => .rdWy hb
  | .wx => .rdWx hb
  | .vbk => .rdVbk hb
  | .hdma1 => .rdHdma1 hb
  | .hdma2 => .rdHdma2 hb
  | .hdma3 => .rdHdma3 hb
  | .hdma4 => .rdHdma4 hb
  | .hdma5 => .rdHdma5 hb
  | .bcps => .rdBcps hb
  | .bcpd => .rdBcpd hb
  | .ocps => .rdOcps hb
  | .ocpd => .rdOcpd hb
  | .opri => .rdOpri hb
  | .cartRom | .cartRam | .wramFixed | .wramBank | .wramEcho | .joyp | .serialRegs | .ifReg | .speedSwitch | .svbk | .hram | .ieReg =>
    .rd hb a

/-- The write row of a place (R126); a place without a row is written by the generic `WR`. -/
def writeInstr (p : Place) (hb : Bool) (a : Addr) (v : Byte) : Instr :=
  match p with
  | .vram => .wrVram hb (BitVec.ofNat 13 (tableOffset .vram a)) v
  | .oam => .wrOam hb (BitVec.ofNat 8 (tableOffset .oam a)) v
  | .wave => .wrWave hb (BitVec.ofNat 4 (tableOffset .wave a)) v
  | .div => .wrDiv hb v
  | .tima => .wrTima hb v
  | .tma => .wrTma hb v
  | .tac => .wrTac hb v
  | .nr10 => .wrNr10 hb v
  | .nr11 => .wrNr11 hb v
  | .nr12 => .wrNr12 hb v
  | .nr13 => .wrNr13 hb v
  | .nr14 => .wrNr14 hb v
  | .nr21 => .wrNr21 hb v
  | .nr22 => .wrNr22 hb v
  | .nr23 => .wrNr23 hb v
  | .nr24 => .wrNr24 hb v
  | .nr30 => .wrNr30 hb v
  | .nr31 => .wrNr31 hb v
  | .nr32 => .wrNr32 hb v
  | .nr33 => .wrNr33 hb v
  | .nr34 => .wrNr34 hb v
  | .nr41 => .wrNr41 hb v
  | .nr42 => .wrNr42 hb v
  | .nr43 => .wrNr43 hb v
  | .nr44 => .wrNr44 hb v
  | .nr50 => .wrNr50 hb v
  | .nr51 => .wrNr51 hb v
  | .nr52 => .wrNr52 hb v
  | .lcdc => .wrLcdc hb v
  | .stat => .wrStat hb v
  | .scy => .wrScy hb v
  | .scx => .wrScx hb v
  | .ly => .wrLy hb v
  | .lyc => .wrLyc hb v
  | .dma => .wrDma hb v
  | .bgp => .wrBgp hb v
  | .obp0 => .wrObp0 hb v
  | .obp1 => .wrObp1 hb v
  | .wy => .wrWy hb v
  | .wx => .wrWx hb v
  | .vbk => .wrVbk hb v
  | .hdma1 => .wrHdma1 hb v
  | .hdma2 => .wrHdma2 hb v
  | .hdma3 => .wrHdma3 hb v
  | .hdma4 => .wrHdma4 hb v
  | .hdma5 => .wrHdma5 hb v
  | .bcps => .wrBcps hb v
  | .bcpd => .wrBcpd hb v
  | .ocps => .wrOcps hb v
  | .ocpd => .wrOcpd hb v
  | .opri => .wrOpri hb v
  | .cartRom | .cartRam | .wramFixed | .wramBank | .wramEcho | .joyp | .serialRegs | .ifReg | .speedSwitch | .svbk | .hram | .ieReg =>
    .wr hb a v

/-- Format `BUS`, class 0 (R121, R126): total, nothing inside it is reserved (R127, R129). The data field of a read is
ignored. -/
def decodeBus (w : Word) : Instr :=
  let a := wordAddr w
  match wordRw w, tablePlaceAt a with
  | false, some p => readInstr p (wordHb w) a
  | false, none => .rd (wordHb w) a
  | true, some p => writeInstr p (wordHb w) a (wordData w)
  | true, none => .wr (wordHb w) a (wordData w)

/-- Format `IOTICK`, class 1 (R122): bits 25:17 zero, bit 16 `ds`, bits 15:0 `cycles`. -/
def decodeIotick (w : Word) : Except Reject Instr :=
  if w.extractLsb' 17 9 = 0#9 then
    if w.getLsbD 16 then .ok (.iotick2 (w.extractLsb' 0 16)) else .ok (.iotick (w.extractLsb' 0 16))
  else .error (.nonzeroField 1#4)

/-- Format `BLOCK`, class 2 (R123): bits 25:2 zero, bit 1 `seg` (0 OAM, 1 GENERAL), bit 0 `val`. -/
def decodeBlock (w : Word) : Except Reject Instr :=
  if w.extractLsb' 2 24 = 0#24 then .ok (.block (if w.getLsbD 1 then .general else .oam) (w.getLsbD 0))
  else .error (.nonzeroField 2#4)

/-- Formats `REGISTER` and `UNREGISTER`, classes 3 and 4 (R124): bits 25:4 zero, bits 3:0 `hid`. -/
def decodeHandler (cls : BitVec 4) (mk : HandlerId → Instr) (w : Word) : Except Reject Instr :=
  if w.extractLsb' 4 22 = 0#22 then
    match HandlerId.ofBits (w.extractLsb' 0 4) with
    | some h => .ok (mk h)
    | none => .error (.reservedHandler (w.extractLsb' 0 4))
  else .error (.nonzeroField cls)

/-- Format `RESET`, class 5: all other bits 0 (R120). -/
def decodeReset (w : Word) : Except Reject Instr :=
  if w.extractLsb' 0 26 = 0#26 then .ok .reset else .error (.nonzeroField 5#4)

/-- Format `DEVTICK`, class 7 (R125): bits 25:3 zero, bits 2:0 `dev`. -/
def decodeDevtick (w : Word) : Except Reject Instr :=
  if w.extractLsb' 3 23 = 0#23 then
    match (w.extractLsb' 0 3).toNat with
    | 0 => .ok .tickTimer
    | 1 => .ok .tickSerial
    | 2 => .ok .tickDma
    | 3 => .ok .tickPpu
    | 4 => .ok .tickApu
    | 5 => .ok .tickHdma
    | _ => .error (.reservedDevice (w.extractLsb' 0 3))
  else .error (.nonzeroField 7#4)

/-- The decoder (R120): by class; classes 6 and 8 to 15 are reserved (R129). -/
def decode (w : Word) : Except Reject Instr :=
  match (wordClass w).toNat with
  | 0 => .ok (decodeBus w)
  | 1 => decodeIotick w
  | 2 => decodeBlock w
  | 3 => decodeHandler 3#4 .register w
  | 4 => decodeHandler 4#4 .unregister w
  | 5 => decodeReset w
  | 7 => decodeDevtick w
  | _ => .error (.reservedClass (wordClass w))

/-- The decoder on any number: one of 30 bits or fewer is an operation word, a wider one is none (R120, R130). -/
def decodeNat (n : Nat) : Except Reject Instr :=
  if n < 2 ^ 30 then decode (BitVec.ofNat 30 n) else .error .tooWide

/-- The decoder on bytes, the least significant first. The spec stores no word in bytes: this order only makes the decoder
total on bytes (DESIGN CHOICE, log 2). -/
def decodeBytes (bs : List Byte) : Except Reject Instr :=
  decodeNat (bs.foldr (fun b n => b.toNat + 256 * n) 0)

/-- What the decoder reads from the operation whose `nbits` bits are `w`, bit 0 the least significant. -/
def decodeTableWord (nbits w : Nat) : Option Instr :=
  match decodeNat (w % 2 ^ nbits) with
  | .ok i => some i
  | .error _ => none

/-! The encoder, from the formats of R121 to R125. -/

/-- A `BUS` word (R121). -/
def encodeBus (hb rw : Bool) (a : Addr) (data : Byte) : Word :=
  (0#4 ++ BitVec.ofBool hb ++ BitVec.ofBool rw ++ a ++ data : BitVec 30)

/-- A `RD` word, with the data field 0 of the canonical form (R121). -/
def encodeRead (hb : Bool) (a : Addr) : Word := encodeBus hb false a 0#8

/-- A `WR` word (R121). -/
def encodeWrite (hb : Bool) (a : Addr) (v : Byte) : Word := encodeBus hb true a v

/-- An `IOTICK` word (R122). -/
def encodeIotick (ds : Bool) (cycles : BitVec 16) : Word :=
  (1#4 ++ 0#9 ++ BitVec.ofBool ds ++ cycles : BitVec 30)

/-- A `BLOCK` word (R123). -/
def encodeBlock (seg : Segment) (val : Bool) : Word :=
  (2#4 ++ 0#24 ++ BitVec.ofBool (seg == .general) ++ BitVec.ofBool val : BitVec 30)

/-- A `REGISTER` or `UNREGISTER` word (R124). -/
def encodeHandler (cls : BitVec 4) (h : HandlerId) : Word :=
  (cls ++ 0#22 ++ h.toBits : BitVec 30)

/-- A `DEVTICK` word (R125). -/
def encodeDevtick (dev : BitVec 3) : Word :=
  (7#4 ++ 0#23 ++ dev : BitVec 30)

/-- The word of an operation (R120 to R126). -/
def encode : Instr → Word
  | .rd hb addr => encodeRead hb addr
  | .wr hb addr v => encodeWrite hb addr v
  | .rdVram hb off => encodeRead hb (placeAddr .vram off.toNat)
  | .wrVram hb off v => encodeWrite hb (placeAddr .vram off.toNat) v
  | .rdOam hb i => encodeRead hb (placeAddr .oam i.toNat)
  | .wrOam hb i v => encodeWrite hb (placeAddr .oam i.toNat) v
  | .rdWave hb i => encodeRead hb (placeAddr .wave i.toNat)
  | .wrWave hb i v => encodeWrite hb (placeAddr .wave i.toNat) v
  | .rdDiv hb => encodeRead hb (placeAddr .div 0)
  | .wrDiv hb v => encodeWrite hb (placeAddr .div 0) v
  | .rdTima hb => encodeRead hb (placeAddr .tima 0)
  | .wrTima hb v => encodeWrite hb (placeAddr .tima 0) v
  | .rdTma hb => encodeRead hb (placeAddr .tma 0)
  | .wrTma hb v => encodeWrite hb (placeAddr .tma 0) v
  | .rdTac hb => encodeRead hb (placeAddr .tac 0)
  | .wrTac hb v => encodeWrite hb (placeAddr .tac 0) v
  | .rdNr10 hb => encodeRead hb (placeAddr .nr10 0)
  | .wrNr10 hb v => encodeWrite hb (placeAddr .nr10 0) v
  | .rdNr11 hb => encodeRead hb (placeAddr .nr11 0)
  | .wrNr11 hb v => encodeWrite hb (placeAddr .nr11 0) v
  | .rdNr12 hb => encodeRead hb (placeAddr .nr12 0)
  | .wrNr12 hb v => encodeWrite hb (placeAddr .nr12 0) v
  | .rdNr13 hb => encodeRead hb (placeAddr .nr13 0)
  | .wrNr13 hb v => encodeWrite hb (placeAddr .nr13 0) v
  | .rdNr14 hb => encodeRead hb (placeAddr .nr14 0)
  | .wrNr14 hb v => encodeWrite hb (placeAddr .nr14 0) v
  | .rdNr21 hb => encodeRead hb (placeAddr .nr21 0)
  | .wrNr21 hb v => encodeWrite hb (placeAddr .nr21 0) v
  | .rdNr22 hb => encodeRead hb (placeAddr .nr22 0)
  | .wrNr22 hb v => encodeWrite hb (placeAddr .nr22 0) v
  | .rdNr23 hb => encodeRead hb (placeAddr .nr23 0)
  | .wrNr23 hb v => encodeWrite hb (placeAddr .nr23 0) v
  | .rdNr24 hb => encodeRead hb (placeAddr .nr24 0)
  | .wrNr24 hb v => encodeWrite hb (placeAddr .nr24 0) v
  | .rdNr30 hb => encodeRead hb (placeAddr .nr30 0)
  | .wrNr30 hb v => encodeWrite hb (placeAddr .nr30 0) v
  | .rdNr31 hb => encodeRead hb (placeAddr .nr31 0)
  | .wrNr31 hb v => encodeWrite hb (placeAddr .nr31 0) v
  | .rdNr32 hb => encodeRead hb (placeAddr .nr32 0)
  | .wrNr32 hb v => encodeWrite hb (placeAddr .nr32 0) v
  | .rdNr33 hb => encodeRead hb (placeAddr .nr33 0)
  | .wrNr33 hb v => encodeWrite hb (placeAddr .nr33 0) v
  | .rdNr34 hb => encodeRead hb (placeAddr .nr34 0)
  | .wrNr34 hb v => encodeWrite hb (placeAddr .nr34 0) v
  | .rdNr41 hb => encodeRead hb (placeAddr .nr41 0)
  | .wrNr41 hb v => encodeWrite hb (placeAddr .nr41 0) v
  | .rdNr42 hb => encodeRead hb (placeAddr .nr42 0)
  | .wrNr42 hb v => encodeWrite hb (placeAddr .nr42 0) v
  | .rdNr43 hb => encodeRead hb (placeAddr .nr43 0)
  | .wrNr43 hb v => encodeWrite hb (placeAddr .nr43 0) v
  | .rdNr44 hb => encodeRead hb (placeAddr .nr44 0)
  | .wrNr44 hb v => encodeWrite hb (placeAddr .nr44 0) v
  | .rdNr50 hb => encodeRead hb (placeAddr .nr50 0)
  | .wrNr50 hb v => encodeWrite hb (placeAddr .nr50 0) v
  | .rdNr51 hb => encodeRead hb (placeAddr .nr51 0)
  | .wrNr51 hb v => encodeWrite hb (placeAddr .nr51 0) v
  | .rdNr52 hb => encodeRead hb (placeAddr .nr52 0)
  | .wrNr52 hb v => encodeWrite hb (placeAddr .nr52 0) v
  | .rdLcdc hb => encodeRead hb (placeAddr .lcdc 0)
  | .wrLcdc hb v => encodeWrite hb (placeAddr .lcdc 0) v
  | .rdStat hb => encodeRead hb (placeAddr .stat 0)
  | .wrStat hb v => encodeWrite hb (placeAddr .stat 0) v
  | .rdScy hb => encodeRead hb (placeAddr .scy 0)
  | .wrScy hb v => encodeWrite hb (placeAddr .scy 0) v
  | .rdScx hb => encodeRead hb (placeAddr .scx 0)
  | .wrScx hb v => encodeWrite hb (placeAddr .scx 0) v
  | .rdLy hb => encodeRead hb (placeAddr .ly 0)
  | .wrLy hb v => encodeWrite hb (placeAddr .ly 0) v
  | .rdLyc hb => encodeRead hb (placeAddr .lyc 0)
  | .wrLyc hb v => encodeWrite hb (placeAddr .lyc 0) v
  | .rdDma hb => encodeRead hb (placeAddr .dma 0)
  | .wrDma hb v => encodeWrite hb (placeAddr .dma 0) v
  | .rdBgp hb => encodeRead hb (placeAddr .bgp 0)
  | .wrBgp hb v => encodeWrite hb (placeAddr .bgp 0) v
  | .rdObp0 hb => encodeRead hb (placeAddr .obp0 0)
  | .wrObp0 hb v => encodeWrite hb (placeAddr .obp0 0) v
  | .rdObp1 hb => encodeRead hb (placeAddr .obp1 0)
  | .wrObp1 hb v => encodeWrite hb (placeAddr .obp1 0) v
  | .rdWy hb => encodeRead hb (placeAddr .wy 0)
  | .wrWy hb v => encodeWrite hb (placeAddr .wy 0) v
  | .rdWx hb => encodeRead hb (placeAddr .wx 0)
  | .wrWx hb v => encodeWrite hb (placeAddr .wx 0) v
  | .rdVbk hb => encodeRead hb (placeAddr .vbk 0)
  | .wrVbk hb v => encodeWrite hb (placeAddr .vbk 0) v
  | .rdHdma1 hb => encodeRead hb (placeAddr .hdma1 0)
  | .wrHdma1 hb v => encodeWrite hb (placeAddr .hdma1 0) v
  | .rdHdma2 hb => encodeRead hb (placeAddr .hdma2 0)
  | .wrHdma2 hb v => encodeWrite hb (placeAddr .hdma2 0) v
  | .rdHdma3 hb => encodeRead hb (placeAddr .hdma3 0)
  | .wrHdma3 hb v => encodeWrite hb (placeAddr .hdma3 0) v
  | .rdHdma4 hb => encodeRead hb (placeAddr .hdma4 0)
  | .wrHdma4 hb v => encodeWrite hb (placeAddr .hdma4 0) v
  | .rdHdma5 hb => encodeRead hb (placeAddr .hdma5 0)
  | .wrHdma5 hb v => encodeWrite hb (placeAddr .hdma5 0) v
  | .rdBcps hb => encodeRead hb (placeAddr .bcps 0)
  | .wrBcps hb v => encodeWrite hb (placeAddr .bcps 0) v
  | .rdBcpd hb => encodeRead hb (placeAddr .bcpd 0)
  | .wrBcpd hb v => encodeWrite hb (placeAddr .bcpd 0) v
  | .rdOcps hb => encodeRead hb (placeAddr .ocps 0)
  | .wrOcps hb v => encodeWrite hb (placeAddr .ocps 0) v
  | .rdOcpd hb => encodeRead hb (placeAddr .ocpd 0)
  | .wrOcpd hb v => encodeWrite hb (placeAddr .ocpd 0) v
  | .rdOpri hb => encodeRead hb (placeAddr .opri 0)
  | .wrOpri hb v => encodeWrite hb (placeAddr .opri 0) v
  | .iotick cycles => encodeIotick false cycles
  | .iotick2 cycles => encodeIotick true cycles
  | .block seg val => encodeBlock seg val
  | .register hid => encodeHandler 3#4 hid
  | .unregister hid => encodeHandler 4#4 hid
  | .reset => (5#4 ++ 0#26 : BitVec 30)
  | .tickTimer => encodeDevtick 0#3
  | .tickSerial => encodeDevtick 1#3
  | .tickDma => encodeDevtick 2#3
  | .tickPpu => encodeDevtick 3#3
  | .tickApu => encodeDevtick 4#3
  | .tickHdma => encodeDevtick 5#3

end Sys2Proof
end

