-- ==== Sys2Proof/Machine/State.lean ====
section
/-! DEFINITION. The state of the machine, as plain data: every element of 10_state.md, the part of the external handlers
and of the CPU that the spec's interface names, the inputs still to come and the outputs made. -/

namespace Sys2Proof.Machine

/-- A memory: the cells written since reset, addresses strictly rising. An address that is not listed reads as the free
value that reset left there (R501). -/
abbrev Memory := List Host.Cell

/-- The framebuffer `FB` (R34): cell `160 * y + x` is the pixel at row `y`, column `x`. -/
abbrev PixelMap := List (Nat × Colour)

/-- A sprite record `{index, y, x}` (R40, R41). -/
structure Sprite where
  index : Nat
  y     : Byte
  x     : Byte
deriving DecidableEq, Repr

/-- `sprites_at` (R41): the non-empty queues, by key, keys strictly rising. -/
abbrev SpriteMap := List (Nat × List Sprite)

/-- A pixel record (R35, R144). `spritePriority` is `sprite_cgb_priority`, the OAM index 0..39. -/
structure Pixel where
  colorIndex         : BitVec 2
  paletteIndex       : BitVec 3
  backgroundPriority : Bool
  spritePriority     : Nat
deriving DecidableEq, Repr

/-- The PPU mode (R31). -/
inductive Mode where
  | hblank
  | vblank
  | oamScan
  | pixelTransfer
deriving DecidableEq, Repr

/-- The tile fetcher's state (R36). -/
inductive FetchState where
  | fetchTileSleep
  | fetchTile
  | fetchLowSleep
  | fetchLow
  | fetchHighSleep
  | fetchHigh
  | pushSleep
  | push
deriving DecidableEq, Repr

/-- The sprite fetcher's state (R39). -/
inductive SpriteState where
  | idle
  | oamSleep
  | oam
  | lowSleep
  | low
  | highSleep
  | high
deriving DecidableEq, Repr

/-- The PPU (R20, R27 to R41). -/
structure Ppu where
  lcdc : Byte
  /-- Bits 6:3 of STAT; bit `k` of STAT is bit `k - 3` here. -/
  statEn : BitVec 4
  scy  : Byte
  scx  : Byte
  lyc  : Byte
  bgp  : Byte
  obp0 : Byte
  obp1 : Byte
  wy   : Byte
  wx   : Byte
  vbk  : BitVec 1
  bcps : Byte
  ocps : Byte
  opri : BitVec 1
  /-- Cell `0x2000 * b + i` is `VRAM[b][i]` (R27). -/
  vram   : Memory
  oam    : Memory
  bgPal  : Memory
  objPal : Memory
  ly        : Nat
  lineTicks : Nat
  mode      : Mode
  statLine  : Bool
  /-- The number of lines the window was drawn on so far in this frame: 144 after line 143 if it was drawn on all (R33, R183;
  DEDUCED, log 14). -/
  winLy       : Nat
  windowDrawn : Bool
  fb : PixelMap
  bgFifo : List Pixel
  spFifo : List Pixel
  fetchState : FetchState
  fetchX : Nat
  fTile  : Byte
  fAttr  : Byte
  fLow   : Byte
  fHigh  : Byte
  fAddr  : Nat
  lx       : Nat
  discard  : Nat
  inWindow : Bool
  spriteState : SpriteState
  curSprite   : Sprite
  sTile : Byte
  sAttr : Byte
  sLow  : Byte
  sHigh : Byte
  sAddr : Nat
  spritesAt   : SpriteMap
  lineSprites : Nat
deriving DecidableEq, Repr

/-- The bus dispatcher (R22 to R24). `registered` is the owner map: the handlers that own their claimed set, in id order;
`REGISTER` and `UNREGISTER` give and take a whole claimed set, so which handlers those are is all the map holds
(DEDUCED, log 3). -/
structure Bus where
  registered     : List HandlerId
  blockedOam     : Bool
  blockedGeneral : Bool
  lastDmaByte    : Byte
deriving DecidableEq, Repr

/-- The OAM DMA engine (R20, R42). -/
structure Dma where
  reg      : Byte
  active   : Bool
  cycle    : Nat
  source   : Addr
  readIdx  : Nat
  writeIdx : Nat
  pending  : Byte
  srcSeg   : Option Segment
deriving DecidableEq, Repr

/-- The HDMA engine's state (R43). -/
inductive HdmaState where
  | idle
  | read
  | write
  | waitHBlank
  | waitNotHBlank
  | terminated
deriving DecidableEq, Repr

/-- The HDMA transfer mode (R43). -/
inductive HdmaMode where
  | gp
  | hblank
deriving DecidableEq, Repr

/-- The HDMA engine (R20, R43). -/
structure Hdma where
  srcHi : Byte
  srcLo : Byte
  dstHi : Byte
  dstLo : Byte
  state : HdmaState
  mode  : HdmaMode
  src   : Addr
  dst   : Addr
  remaining : Nat
  pending   : Byte
  stall     : Nat
deriving DecidableEq, Repr

/-- The multiplexer's bit, `sel_bit` in {9, 3, 5, 7} (R52). -/
inductive MuxBit where
  | bit9
  | bit3
  | bit5
  | bit7
deriving DecidableEq, Repr

/-- The Timer (R50 to R53). -/
structure Timer where
  counter   : BitVec 16
  tima      : Byte
  tma       : Byte
  tac       : BitVec 3
  selBit    : MuxBit
  reloadCtr : Nat
deriving DecidableEq, Repr

/-- The enabled flag and length counter of a channel (R62). -/
structure Chan where
  enabled  : Bool
  length   : Nat
  lengthEn : Bool
deriving DecidableEq, Repr

/-- The volume envelope of a channel (R63). -/
structure Envelope where
  vol   : BitVec 4
  timer : Nat
deriving DecidableEq, Repr

/-- The sweep unit of channel 1 (R64). -/
structure Sweep where
  shadow : BitVec 11
  timer  : Nat
  on     : Bool
deriving DecidableEq, Repr

/-- The default generator of a square channel (R67). `ftimer` is a natural: R67 says 0 to 8191, and R396 and R399 reload 8192 at
frequency 0 (DEDUCED, log 14). -/
structure SquareGen where
  ftimer  : Nat
  dutyPos : BitVec 3
deriving DecidableEq, Repr

/-- The default generator of the wave channel (R67). `ftimer` is a natural: R67 says 0 to 4095, and R397 and R399 reload 4096 at
frequency 0 (DEDUCED, log 14). -/
structure WaveGen where
  ftimer    : Nat
  wavePos   : BitVec 5
  waveLatch : BitVec 4
deriving DecidableEq, Repr

/-- The default generator of the noise channel (R67). -/
structure NoiseGen where
  ftimer : Nat
  lfsr   : BitVec 15
deriving DecidableEq, Repr

/-- The opaque states of supplied generators (R67, R395). -/
structure GenTokens where
  tok1 : Nat
  tok2 : Nat
  tok3 : Nat
  tok4 : Nat
deriving DecidableEq, Repr

/-- The APU (R20, R60 to R68). -/
structure Apu where
  nr10 : Byte
  nr11 : Byte
  nr12 : Byte
  nr13 : Byte
  nr14 : Byte
  nr21 : Byte
  nr22 : Byte
  nr23 : Byte
  nr24 : Byte
  nr30 : Byte
  nr31 : Byte
  nr32 : Byte
  nr33 : Byte
  nr34 : Byte
  nr41 : Byte
  nr42 : Byte
  nr43 : Byte
  nr44 : Byte
  nr50 : Byte
  nr51 : Byte
  power : Bool
  fsCounter : Nat
  fsStep    : Nat
  fsLast    : Option Nat
  c1 : Chan
  c2 : Chan
  c3 : Chan
  c4 : Chan
  e1 : Envelope
  e2 : Envelope
  e4 : Envelope
  sweep : Sweep
  wave : Memory
  g1 : SquareGen
  g2 : SquareGen
  g3 : WaveGen
  g4 : NoiseGen
  supplied : GenTokens
  sampleCtr : Nat
deriving DecidableEq, Repr

/-- The CPU's own state machine (R470). -/
inductive CpuRun where
  | running
  | halted
  | stopped
  | servicingInterrupt
deriving DecidableEq, Repr

/-- The external CPU as far as R73, R463 and R470 to R476 speak of it: the register pairs, IF, IE, the master enable, the run
state, the speed mode and the armed switch, the pending halt bug, and the speed-switch register's opaque state. -/
structure Cpu where
  /-- The accumulator and the flags, whose low nibble is always zero (R73). The spec does not say which byte is which:
  the accumulator is the high one and the flags the low one (PRESUMED, log 29). -/
  af  : BitVec 16
  bc  : BitVec 16
  de  : BitVec 16
  hl  : BitVec 16
  ifr : Byte
  ie  : Byte
  ime : Bool
  run : CpuRun
  pc  : Addr
  sp  : Addr
  doubleSpeed : Bool
  switchArmed : Bool
  haltBug     : Bool
  speedToken  : Nat
deriving DecidableEq, Repr

/-- The button state of the joypad (R466): which of the eight buttons are held down. -/
structure Buttons where
  up     : Bool
  down   : Bool
  left   : Bool
  right  : Bool
  a      : Bool
  b      : Bool
  start  : Bool
  select : Bool
deriving DecidableEq, Repr

/-- The external handlers' own state (R73, R86, R167, R466): work RAM by bank (cell `0x1000 * bank + offset`), its bank
register, high RAM, the buttons held, and a token for the state of each handler that is opaque (high RAM's is used where the
configuration makes it so). -/
structure Ext where
  wram : Memory
  svbk : Byte
  hram : Memory
  buttons     : Buttons
  hramToken   : Nat
  cartToken   : Nat
  joypToken   : Nat
  serialToken : Nat
deriving DecidableEq, Repr

/-- A host-visible event (R15). -/
inductive Event where
  /-- `VBlankEvent(FB)` (R194): a copy of the framebuffer; `draw` says which free values its unlisted cells have. -/
  | vblank (fb : PixelMap) (draw : Nat)
  /-- `SampleEvent(left, right)` (R418), as the exact rational pair. -/
  | sample (left right : Rat)
deriving DecidableEq, Repr

/-- A part of an instruction of the external CPU, whose instruction set is outside the spec (R6): an access to the bus with
`hb = 1` (R82), the fetch of the byte at the PC, an effect on its own registers, or its going to halt or stop. -/
inductive CpuAct where
  /-- The CPU fetches the byte at its PC (R475). -/
  | fetch
  /-- The CPU reads the bus. -/
  | read (addr : Addr)
  /-- The CPU writes the bus. -/
  | write (addr : Addr) (v : Byte)
  /-- The CPU leaves its registers and the master enable at these values. -/
  | set (af bc de hl : BitVec 16) (sp pc : Addr) (ime : Bool)
  /-- The CPU halts (R475). -/
  | halt
  /-- The CPU stops (R476). -/
  | stop
deriving DecidableEq, Repr

/-- What the environment gives the machine, one at a time (R98): an operation word, or one of the acts of the external
agents whose effect on the block the spec describes. -/
inductive Input where
  /-- An operation word of 30_encoding.md. -/
  | word (w : Word)
  /-- The orchestrator takes the stall count and runs it off (R308, R445). -/
  | takeStall
  /-- The orchestrator issues `REGISTER` for every handler present (R168, R510). -/
  | registerAll
  /-- A button is pressed (R466). -/
  | press (k : Button)
  /-- A button is released (R466). -/
  | release (k : Button)
  /-- The CPU looks for an interrupt to service (R470 to R473), a stall that is owed run off around it (R445). -/
  | cpuService
  /-- One part of an instruction, for a CPU whose ticks come between its accesses (R440); a stall that is owed is run off
  before it (R445, log 31). -/
  | cpuAct (act : CpuAct)
  /-- One call of the CPU's `Tick()` (R470): the instruction it executes if it neither services nor idles, with its cycles,
  and the cycles of an idle step; a stall that is owed is run off around it (R445). -/
  | cpuTick (acts : List CpuAct) (cycles idle : BitVec 16)
deriving DecidableEq, Repr

/-- The fault state's two kinds (R460). `step` raises one, and only one that the state already holds, when the machine
stands in the fault state and an input other than `RESET` arrives: the fault state is stuck (U3). Safe: where the
machine stops nothing further can be proved. -/
inductive Fault where
  /-- Code 1. Recorded by `REGISTER`; raised by `step` in the fault state. Safe. -/
  | duplicateClaim (hid : HandlerId) (addr : Addr)
  /-- Code 2. Recorded by the dispatcher when a handler receives an address outside its claimed set; raised by `step` in the
  fault state. Safe. -/
  | unclaimedDelivery (hid : HandlerId) (addr : Addr)
deriving DecidableEq, Repr

/-- Why the machine answers no state. -/
inductive Refusal where
  /-- Raised by `exec` for an operation that has no meaning in this model. Safe. -/
  | notModelled (mnemonic : String)
  /-- Raised by `step` on a reserved operation word, which is no operation of the block (R129, U5). Safe. -/
  | reservedWord (r : Reject)
deriving DecidableEq, Repr

/-- Where the dispatcher takes an access (R127). -/
inductive Route where
  /-- The segment is blocked and the access honours blocks. -/
  | blocked (seg : Segment)
  /-- No handler owns the address. -/
  | unmapped
  /-- The owner does not claim the address (R461). -/
  | unclaimed (h : HandlerId)
  /-- The access is delivered to a place, at an offset into it. -/
  | deliver (p : Place) (off : Nat)
deriving DecidableEq, Repr

/-- The state of the machine. `fault` is the fault state (R460); `draws` counts the resets, each of which draws the
unspecified memories anew; `pending` holds the inputs to come, the first one next; `rdata` is the byte the last read
operation returned to its issuer; `trace` is the host-visible output trace (R15), oldest first. The last four are the
model's own. -/
structure State where
  cfg   : Config
  bus   : Bus
  ppu   : Ppu
  dma   : Dma
  hdma  : Hdma
  timer : Timer
  apu   : Apu
  halfPhase : Bool
  cpu   : Cpu
  ext   : Ext
  fault   : Option Fault
  draws   : Nat
  pending : List Input
  rdata   : Option Byte
  trace   : List Event
deriving DecidableEq, Repr

/-- The PPU after reset (R501). -/
def Ppu.reset : Ppu where
  lcdc := 0#8
  statEn := 0#4
  scy := 0#8
  scx := 0#8
  lyc := 0#8
  bgp := 0#8
  obp0 := 0#8
  obp1 := 0#8
  wy := 0#8
  wx := 0#8
  vbk := 0#1
  bcps := 0#8
  ocps := 0#8
  opri := 0#1
  vram := []
  oam := []
  bgPal := []
  objPal := []
  ly := 0
  lineTicks := 0
  mode := .hblank
  statLine := false
  winLy := 0
  windowDrawn := false
  fb := []
  bgFifo := []
  spFifo := []
  fetchState := .fetchTileSleep
  fetchX := 0
  fTile := 0#8
  fAttr := 0#8
  fLow := 0#8
  fHigh := 0#8
  fAddr := 0
  lx := 0
  discard := 0
  inWindow := false
  spriteState := .idle
  curSprite := ⟨0, 0#8, 0#8⟩
  sTile := 0#8
  sAttr := 0#8
  sLow := 0#8
  sHigh := 0#8
  sAddr := 0
  spritesAt := []
  lineSprites := 0

/-- The dispatcher after reset (R501): no address is owned. -/
def Bus.reset (cfg : Config) : Bus where
  registered := []
  blockedOam := false
  blockedGeneral := false
  lastDmaByte := cfg.blockedReadValue

/-- The OAM DMA engine after reset (R501). -/
def Dma.reset : Dma where
  reg := 0#8
  active := false
  cycle := 0
  source := 0#16
  readIdx := 0
  writeIdx := 0
  pending := 0#8
  srcSeg := none

/-- The HDMA engine after reset (R501). -/
def Hdma.reset : Hdma where
  srcHi := 0#8
  srcLo := 0#8
  dstHi := 0#8
  dstLo := 0#8
  state := .idle
  mode := .gp
  src := 0#16
  dst := 0#16
  remaining := 0
  pending := 0#8
  stall := 0

/-- The Timer after reset (R501). -/
def Timer.reset : Timer where
  counter := 0#16
  tima := 0#8
  tma := 0#8
  tac := 0#3
  selBit := .bit9
  reloadCtr := 0

/-- A channel after reset (R501). -/
def Chan.reset : Chan := ⟨false, 0, false⟩

/-- An envelope after reset (R501). -/
def Envelope.reset : Envelope := ⟨0#4, 0⟩

/-- The sweep unit after reset (R501). -/
def Sweep.reset : Sweep := ⟨0#11, 0, false⟩

/-- The APU after reset (R501). -/
def Apu.reset (cfg : Config) : Apu where
  nr10 := 0#8
  nr11 := 0#8
  nr12 := 0#8
  nr13 := 0#8
  nr14 := 0#8
  nr21 := 0#8
  nr22 := 0#8
  nr23 := 0#8
  nr24 := 0#8
  nr30 := 0#8
  nr31 := 0#8
  nr32 := 0#8
  nr33 := 0#8
  nr34 := 0#8
  nr41 := 0#8
  nr42 := 0#8
  nr43 := 0#8
  nr44 := 0#8
  nr50 := 0#8
  nr51 := 0#8
  power := false
  fsCounter := 0
  fsStep := 0
  fsLast := none
  c1 := Chan.reset
  c2 := Chan.reset
  c3 := Chan.reset
  c4 := Chan.reset
  e1 := Envelope.reset
  e2 := Envelope.reset
  e4 := Envelope.reset
  sweep := Sweep.reset
  wave := []
  g1 := ⟨0, 0#3⟩
  g2 := ⟨0, 0#3⟩
  g3 := ⟨0, 0#5, 0#4⟩
  g4 := ⟨0, 0x7FFF#15⟩
  supplied := ⟨0, 0, 0, 0⟩
  sampleCtr := cfg.samplePeriod.val

/-- The CPU's part at power-on. The spec gives no value (R503): DESIGN CHOICE, log 4. -/
def Cpu.reset : Cpu where
  af := 0#16
  bc := 0#16
  de := 0#16
  hl := 0#16
  ifr := 0#8
  ie := 0#8
  ime := false
  run := .running
  pc := 0#16
  sp := 0#16
  doubleSpeed := false
  switchArmed := false
  haltBug := false
  speedToken := 0

/-- The external handlers at power-on. The spec gives no value: DESIGN CHOICE, log 4. -/
def Ext.reset : Ext where
  wram := []
  svbk := 0#8
  hram := []
  buttons := ⟨false, false, false, false, false, false, false, false⟩
  hramToken := 0
  cartToken := 0
  joypToken := 0
  serialToken := 0

/-- The machine of a configuration at power-on: every element of 10_state.md at the value of R501, no handler registered, no
input waiting and nothing put out. -/
def State.powerOn (cfg : Config) : State where
  cfg := cfg
  bus := Bus.reset cfg
  ppu := Ppu.reset
  dma := Dma.reset
  hdma := Hdma.reset
  timer := Timer.reset
  apu := Apu.reset cfg
  halfPhase := false
  cpu := Cpu.reset
  ext := Ext.reset
  fault := none
  draws := 0
  pending := []
  rdata := none
  trace := []

/-- The machine right after reset, with the parameters at their defaults (R8, R501). -/
def State.reset : State := State.powerOn Config.default

end Sys2Proof.Machine
end

