-- ==== Sys2Proof/Machine/Ops.lean ====
section
/-! DEFINITION. The named operations every unit shares: sparse maps, the free content of unwritten memory, the updates of
the state by unit, interrupt requests, output events, and taking the fault state. -/

namespace Sys2Proof.Machine

/-! Sparse maps. -/

/-- The value listed at a key, if one is. -/
def lookup {α : Type} : List (Nat × α) → Nat → Option α
  | [], _ => none
  | (j, v) :: m, k => if j = k then some v else lookup m k

/-- The map with `v` at key `k`, keys kept rising. -/
def insert {α : Type} : List (Nat × α) → Nat → α → List (Nat × α)
  | [], k, v => [(k, v)]
  | (j, w) :: m, k, v =>
    if k < j then (k, v) :: (j, w) :: m
    else if k = j then (k, v) :: m
    else (j, w) :: insert m k v

/-- The map without key `k`. -/
def erase {α : Type} : List (Nat × α) → Nat → List (Nat × α)
  | [], _ => []
  | (j, w) :: m, k => if j = k then m else (j, w) :: erase m k

/-- The keys rise strictly, all from `lo` on and below `bound`. -/
def risingFrom {α : Type} (bound : Nat) : Nat → List (Nat × α) → Bool
  | _, [] => true
  | lo, (j, _) :: m => decide (lo ≤ j) && decide (j < bound) && risingFrom bound (j + 1) m

/-- The canonical form of a memory of `bound` cells: keys strictly rising, all below `bound`. What an unlisted cell reads
as is a free value and no byte, so no listed cell can equal it (DESIGN CHOICE, log 1). -/
def Memory.wf (bound : Nat) (m : Memory) : Bool := risingFrom bound 0 m

/-- The canonical form of the framebuffer's 144 rows of 160. -/
def PixelMap.wf (m : PixelMap) : Bool := risingFrom (144 * 160) 0 m

/-- The canonical form of the sprite map: keys strictly rising, 0 to 247, no queue empty. -/
def SpriteMap.wf (m : SpriteMap) : Bool := risingFrom 248 0 m && m.all fun e => !e.2.isEmpty

/-- The byte in a cell: what was written, or else the free value that reset left (R501). -/
def readCell (r : Region) (draw : Nat) (m : Memory) (i : Nat) : Byte :=
  (lookup m i).getD (Config.freeByte r draw i)

/-- The pixel in a cell of the framebuffer (R34): what was written, or else the free value that reset left (R501). -/
def readPixel (draw : Nat) (m : PixelMap) (i : Nat) : Colour :=
  (lookup m i).getD (Config.freePixel draw i)

/-- The queue at a key of the sprite map, empty if none is listed. -/
def queueAt (m : SpriteMap) (k : Nat) : List Sprite := (lookup m k).getD []

/-- The sprite map with queue `q` at key `k`; an empty queue is not listed. -/
def setQueue (m : SpriteMap) (k : Nat) (q : List Sprite) : SpriteMap :=
  match q with
  | [] => erase m k
  | r :: rs => insert m k (r :: rs)

/-- Repeat a step `n` times. -/
def repeatN {α : Type} : Nat → (α → α) → α → α
  | 0, _, a => a
  | n + 1, f, a => repeatN n f (f a)

/-! The updates of the state, one for each part. -/

def State.setBus (s : State) (b : Bus) : State := { s with bus := b }
def State.setPpu (s : State) (p : Ppu) : State := { s with ppu := p }
def State.setDma (s : State) (d : Dma) : State := { s with dma := d }
def State.setHdma (s : State) (h : Hdma) : State := { s with hdma := h }
def State.setTimer (s : State) (t : Timer) : State := { s with timer := t }
def State.setApu (s : State) (a : Apu) : State := { s with apu := a }
def State.setHalfPhase (s : State) (b : Bool) : State := { s with halfPhase := b }
def State.setCpu (s : State) (c : Cpu) : State := { s with cpu := c }
def State.setExt (s : State) (e : Ext) : State := { s with ext := e }
def State.setFault (s : State) (f : Option Fault) : State := { s with fault := f }
def State.setPending (s : State) (q : List Input) : State := { s with pending := q }
def State.setRdata (s : State) (b : Option Byte) : State := { s with rdata := b }
def State.setTrace (s : State) (t : List Event) : State := { s with trace := t }

/-- `blocked[seg]` (R23). -/
def Bus.blocked (b : Bus) : Segment → Bool
  | .oam => b.blockedOam
  | .general => b.blockedGeneral

/-- `blocked[seg] <- v` (R165): a plain flag, not a count. -/
def Bus.setBlocked (b : Bus) (seg : Segment) (v : Bool) : Bus :=
  match seg with
  | .oam => { b with blockedOam := v }
  | .general => { b with blockedGeneral := v }

/-- `blocked[seg] <- v` in the state (R165). -/
def State.setBlocked (s : State) (seg : Segment) (v : Bool) : State := s.setBus (s.bus.setBlocked seg v)

/-- `RaiseIRQ(n)` (R463): one atomic OR into the CPU's IF. -/
def raiseIrq (n : Nat) (s : State) : State :=
  s.setCpu { s.cpu with ifr := s.cpu.ifr ||| (1#8 <<< n) }

/-- `emit E` (R15): appends an event to the output trace. -/
def emit (e : Event) (s : State) : State := s.setTrace (s.trace ++ [e])

/-- `raise Fault(kind)` (R15, R460): the machine goes into the fault state, everything else as it was. -/
def raiseFault (f : Fault) (s : State) : State := s.setFault (some f)

/-- The code of a fault (R460). -/
def Fault.code : Fault → Nat
  | .duplicateClaim _ _ => 1
  | .unclaimedDelivery _ _ => 2

/-- `RESET` (R500, R501): every element of 10_state.md at its reset value, the fault state left, no handler registered, the
unspecified memories drawn anew. The configuration, the external agents' own state, the inputs to come and what was put
out stay. -/
def resetBlock (s : State) : State :=
  { State.powerOn s.cfg with
    cpu := s.cpu
    ext := s.ext
    draws := s.draws + 1
    pending := s.pending
    rdata := s.rdata
    trace := s.trace }

end Sys2Proof.Machine
end

