-- ==== Sys2Proof/Machine/Operands.lean ====
section
/-! DEFINITION. The fields of registers, memory entries and records (R135 to R151), and the values the block assembles from
several bytes (R91). -/

namespace Sys2Proof.Machine

/-- `rev8(v)` (R12). -/
def rev8 (v : Byte) : Byte := v.reverse

/-! LCDC (R135). -/

def Ppu.lcdEnabled (p : Ppu) : Bool := p.lcdc.getLsbD 7
def Ppu.windowMapHigh (p : Ppu) : Bool := p.lcdc.getLsbD 6
def Ppu.windowEnabled (p : Ppu) : Bool := p.lcdc.getLsbD 5
def Ppu.unsignedTiles (p : Ppu) : Bool := p.lcdc.getLsbD 4
def Ppu.backgroundMapHigh (p : Ppu) : Bool := p.lcdc.getLsbD 3
def Ppu.tallSprites (p : Ppu) : Bool := p.lcdc.getLsbD 2
def Ppu.spritesEnabled (p : Ppu) : Bool := p.lcdc.getLsbD 1
/-- LCDC bit 0: background and window enable in DMG mode, background master priority in CGB mode. -/
def Ppu.lcdcBit0 (p : Ppu) : Bool := p.lcdc.getLsbD 0

/-- The height of a sprite, LCDC bit 2. -/
def Ppu.spriteHeight (p : Ppu) : Nat := if p.tallSprites then 16 else 8

/-! Attribute bytes: OAM byte 3 (R141) and the CGB background attribute byte (R142) agree on these. -/

def attrPriority (a : Byte) : Bool := a.getLsbD 7
def attrVFlip (a : Byte) : Bool := a.getLsbD 6
def attrHFlip (a : Byte) : Bool := a.getLsbD 5
/-- OAM byte 3 bit 4: the DMG palette. -/
def attrDmgPalette (a : Byte) : Bool := a.getLsbD 4
/-- Bit 3: the CGB VRAM bank. -/
def attrBank (a : Byte) : Nat := (a.getLsbD 3).toNat
/-- Bits 2:0: the CGB palette. -/
def attrPalette (a : Byte) : BitVec 3 := a.extractLsb' 0 3

/-- `v`, reversed if the attribute asks for a horizontal flip (R232, R233, R244). -/
def flipIf (attr v : Byte) : Byte := if attrHFlip attr then rev8 v else v

/-- The colour index of pixel `p` of a tile row, 0 leftmost: `{hi[7-p], lo[7-p]}` (R143). -/
def rowPixel (lo hi : Byte) (p : Nat) : BitVec 2 :=
  BitVec.ofBool (hi.getLsbD (7 - p)) ++ BitVec.ofBool (lo.getLsbD (7 - p))

/-- The shade of a colour index in BGP, OBP0 or OBP1: bits `2c+1:2c` (R145). -/
def shadeOf (pal : Byte) (c : BitVec 2) : BitVec 2 := pal.extractLsb' (2 * c.toNat) 2

/-- `DMG_SHADE` (R8). -/
def shadeColour (t : ShadeTable) (n : BitVec 2) : Colour :=
  match n.toNat with
  | 0 => t.shade0
  | 1 => t.shade1
  | 2 => t.shade2
  | _ => t.shade3

/-- A CGB colour from its two bytes, `{hi[6:0], lo}` (R145). -/
def cgbColour (lo hi : Byte) : Colour := hi.extractLsb' 0 7 ++ lo

/-- The byte cell of colour `c` of palette `pal`: `8 * pal + 2 * c` (R145, R262). -/
def paletteCell (pal : BitVec 3) (c : BitVec 2) : Nat := 8 * pal.toNat + 2 * c.toNat

/-! TAC (R137). -/

/-- `MUX[sel]` (R330). -/
def muxOf (sel : BitVec 2) : MuxBit :=
  match sel.toNat with
  | 0 => .bit9
  | 1 => .bit3
  | 2 => .bit5
  | _ => .bit7

/-- The counter bit a multiplexer setting selects (R52). -/
def MuxBit.index : MuxBit → Nat
  | .bit9 => 9
  | .bit3 => 3
  | .bit5 => 5
  | .bit7 => 7

/-- TAC bits 1:0, the clock select (R137). -/
def tacSelect (tac : BitVec 3) : BitVec 2 := tac.extractLsb' 0 2

/-- TAC bit 2, the enable (R137). -/
def tacEnable (tac : BitVec 3) : Bool := tac.getLsbD 2

/-! OAM DMA and HDMA (R138, R139, R281, R304, R306). -/

/-- The OAM DMA source of a written page (R281): pages from 0xF0 on are remapped by -0x20. -/
def dmaSourceOf (v : Byte) : Addr :=
  (if 0xF0 ≤ v.toNat then v - 0x20#8 else v) ++ 0#8

/-- `SrcStart()` (R304). -/
def Hdma.srcStart (h : Hdma) : Addr := (h.srcHi ++ h.srcLo) &&& 0xFFF0#16

/-- `DstStart()` (R304); `vramBase` is `ADDR_VRAM`. -/
def Hdma.dstStart (vramBase : Addr) (h : Hdma) : Addr := vramBase + ((h.dstHi ++ h.dstLo) &&& 0x1FF0#16)

/-- The byte count of a control byte, `(v[6:0] + 1) * 16` (R306). -/
def hdmaLength (v : Byte) : Nat := ((v.extractLsb' 0 7).toNat + 1) * 16

/-! The APU's fields (R146 to R150). -/

/-- The 11-bit frequency `{nrc4[2:0], nrc3}` (R65). -/
def freqOf (nrc4 nrc3 : Byte) : BitVec 11 := nrc4.extractLsb' 0 3 ++ nrc3

/-- NR10 bits 6:4, the sweep period (R146). -/
def sweepPeriod (nr10 : Byte) : Nat := (nr10.extractLsb' 4 3).toNat
/-- NR10 bit 3, subtract (R146). -/
def sweepDown (nr10 : Byte) : Bool := nr10.getLsbD 3
/-- NR10 bits 2:0, the shift (R146). -/
def sweepShift (nr10 : Byte) : Nat := (nr10.extractLsb' 0 3).toNat

/-- NRc2 bits 7:4, the initial volume (R147). -/
def envInitial (nrc2 : Byte) : BitVec 4 := nrc2.extractLsb' 4 4
/-- NRc2 bit 3, the direction (R147). -/
def envUp (nrc2 : Byte) : Bool := nrc2.getLsbD 3
/-- NRc2 bits 2:0, the period (R147). -/
def envPeriod (nrc2 : Byte) : Nat := (nrc2.extractLsb' 0 3).toNat

/-- A period of 0 counts as 8 (R367, R371, R380, R381). -/
def periodOr8 (period : Nat) : Nat := if period = 0 then 8 else period

/-- NR11, NR21, NR41 bits 5:0: the length load, `64 - v[5:0]` (R147, R366). -/
def lengthLoad64 (v : Byte) : Nat := 64 - (v.extractLsb' 0 6).toNat

/-- NR31: the length load, `256 - v` (R147, R366). -/
def lengthLoad256 (v : Byte) : Nat := 256 - v.toNat

/-- NRc1 bits 7:6, the duty (R147), and the entry of `DUTY` it selects (R396). -/
def dutyPattern (nrc1 : Byte) : Byte :=
  match (nrc1.extractLsb' 6 2).toNat with
  | 0 => 0b00000001#8
  | 1 => 0b10000001#8
  | 2 => 0b10000111#8
  | _ => 0b01111110#8

/-- NR32 bits 6:5, the output level (R149), and the entry of `SHIFT` it selects (R397). -/
def waveShift (nr32 : Byte) : Nat :=
  match (nr32.extractLsb' 5 2).toNat with
  | 0 => 4
  | 1 => 0
  | 2 => 1
  | _ => 2

/-- NR43 bits 2:0, the divisor code (R150), and the entry of `DIVISOR` it selects (R398). -/
def noiseDivisor (nr43 : Byte) : Nat :=
  match (nr43.extractLsb' 0 3).toNat with
  | 0 => 8
  | n => 16 * n

/-- The noise channel's reload value, `DIVISOR << nr43[7:4]` (R398, R399). -/
def noiseReload (nr43 : Byte) : Nat := noiseDivisor nr43 <<< (nr43.extractLsb' 4 4).toNat

/-- NR50 bits 6:4, the left master volume (R151). -/
def leftVolume (nr50 : Byte) : Nat := (nr50.extractLsb' 4 3).toNat
/-- NR50 bits 2:0, the right master volume (R151). -/
def rightVolume (nr50 : Byte) : Nat := (nr50.extractLsb' 0 3).toNat

/-- The channel's number, 1 to 4 (R62). -/
def channelNumber : Channel → Nat
  | .ch1 => 1
  | .ch2 => 2
  | .ch3 => 3
  | .ch4 => 4

/-- NR51 bit `3 + c`: channel `c` goes to the left (R151). -/
def routedLeft (nr51 : Byte) (c : Channel) : Bool := nr51.getLsbD (3 + channelNumber c)
/-- NR51 bit `c - 1`: channel `c` goes to the right (R151). -/
def routedRight (nr51 : Byte) (c : Channel) : Bool := nr51.getLsbD (channelNumber c - 1)

/-- `MUTE[c]` (R8). -/
def muted (m : MuteSwitches) : Channel → Bool
  | .ch1 => m.mute1
  | .ch2 => m.mute2
  | .ch3 => m.mute3
  | .ch4 => m.mute4

/-! Work RAM (R84, R86). -/

/-- The bank of the switchable region (R86): bank 0 and 8 select bank 1. In DMG mode there is no bank register and the
region is bank 1. -/
def wramBankOf (mode : HwMode) (svbk : Byte) : Nat :=
  match mode with
  | .dmg => 1
  | .cgb => if (svbk.extractLsb' 0 3).toNat = 0 then 1 else (svbk.extractLsb' 0 3).toNat

/-- The work-RAM cell of an offset from the first address of the fixed region: the first 0x1000 offsets are bank 0, the next
ones the switchable bank (R84, R86). -/
def wramCell (mode : HwMode) (svbk : Byte) (off : Nat) : Nat :=
  if off < 0x1000 then off else 0x1000 * wramBankOf mode svbk + (off - 0x1000)

end Sys2Proof.Machine
end

