-- ==== Sys2Proof/Machine/Flags.lean ====
section
/-! DEFINITION. The flags and status bytes the block computes (R21, R26): the Timer's observed signal, the STAT line and
STAT, the HDMA status, NR52, and the DAC and overflow conditions of the APU. -/

namespace Sys2Proof.Machine

/-- `sig` (R331): the selected counter bit gated by the enable. -/
def Timer.sig (t : Timer) : Bool := tacEnable t.tac && t.counter.getLsbD t.selBit.index

/-- The mode's number in STAT bits 1:0 (R31). -/
def Mode.number : Mode → BitVec 2
  | .hblank => 0#2
  | .vblank => 1#2
  | .oamScan => 2#2
  | .pixelTransfer => 3#2

/-- `ly = lyc` (R26). -/
def Ppu.coincidence (p : Ppu) : Bool := decide (p.ly = p.lyc.toNat)

/-- The OR of the four enabled STAT conditions (R190). -/
def Ppu.statCondition (p : Ppu) : Bool :=
  (p.statEn.getLsbD 0 && p.mode == .hblank)
  || (p.statEn.getLsbD 1 && p.mode == .vblank)
  || (p.statEn.getLsbD 2 && p.mode == .oamScan)
  || (p.statEn.getLsbD 3 && p.coincidence)

/-- What STAT reads (R198): bit 7 one, the enables, the coincidence flag, the mode. -/
def Ppu.statByte (p : Ppu) : Byte :=
  (1#1 ++ p.statEn ++ BitVec.ofBool p.coincidence ++ p.mode.number : BitVec 8)

/-- `UpdateStatLine()` (R190): interrupt 1 on a rising edge of the OR only. -/
def updateStatLine (s : State) : State :=
  let line := s.ppu.statCondition
  let s' := if line && !s.ppu.statLine then raiseIrq 1 s else s
  s'.setPpu { s'.ppu with statLine := line }

/-- The transfer is under way (R305). -/
def Hdma.busy (h : Hdma) : Bool :=
  match h.state with
  | .read | .write | .waitHBlank | .waitNotHBlank => true
  | .idle | .terminated => false

/-- `(blocks - 1) & 0x7F` with `blocks = (hdma_remaining + 15) div 16` (R311). -/
def Hdma.blocksLeft (h : Hdma) : BitVec 7 := BitVec.ofNat 7 ((h.remaining + 15) / 16) - 1#7

/-- What HDMA5 reads (R311). In a general-purpose transfer under way R311 gives bit 7 as 0 and R139 as 1: R311 is followed
(DEDUCED, log 30). -/
def Hdma.statusByte (h : Hdma) : Byte :=
  match h.state with
  | .idle => 0xFF#8
  | .terminated => (1#1 ++ h.blocksLeft : BitVec 8)
  | .read | .write | .waitHBlank | .waitNotHBlank => (0#1 ++ h.blocksLeft : BitVec 8)

/-- What NR52 reads (R422). -/
def Apu.nr52Byte (a : Apu) : Byte :=
  (BitVec.ofBool a.power ++ 7#3 ++ BitVec.ofBool a.c4.enabled ++ BitVec.ofBool a.c3.enabled
    ++ BitVec.ofBool a.c2.enabled ++ BitVec.ofBool a.c1.enabled : BitVec 8)

/-- `DacOn(c)` for c = 1, 2, 4: NRc2 bits 7:3 not all zero (R368). -/
def dacOnEnv (nrc2 : Byte) : Bool := nrc2.extractLsb' 3 5 != 0#5

/-- `DacOn(3)`: NR30 bit 7 (R368). -/
def dacOnWave (nr30 : Byte) : Bool := nr30.getLsbD 7

/-- `SweepCalc()` (R375). -/
def Apu.sweepCalc (a : Apu) : Nat :=
  let delta := a.sweep.shadow.toNat >>> sweepShift a.nr10
  if sweepDown a.nr10 then a.sweep.shadow.toNat - delta else a.sweep.shadow.toNat + delta

/-- An overflowing sweep result (R375). -/
def sweepOverflow (n : Nat) : Bool := decide (2047 < n)

/-- `LEN_MASK`, `SWEEP_MASK`, `ENV_MASK` (R360): the frame-sequencer steps that clock each unit. -/
def lenMask : Byte := 0x55#8
def sweepMask : Byte := 0x44#8
def envMask : Byte := 0x80#8

/-- The sequencer's current step is a length-clocking one (R363, R372). -/
def onLengthStep (fsLast : Option Nat) : Bool :=
  match fsLast with
  | none => false
  | some n => lenMask.getLsbD n

end Sys2Proof.Machine
end

