-- ==== Sys2Proof/Machine/ApuUnit.lean ====
section
/-! DEFINITION. The APU's units (46_apu_sequencer_channels.md): length counters, envelopes, sweep, trigger, the channel
generators, the frame sequencer, and the writes of its registers. -/

namespace Sys2Proof.Machine

/-! What belongs to a channel. -/

def Apu.chan (a : Apu) : Channel → Chan
  | .ch1 => a.c1
  | .ch2 => a.c2
  | .ch3 => a.c3
  | .ch4 => a.c4

def Apu.setChan (a : Apu) (c : Channel) (k : Chan) : Apu :=
  match c with
  | .ch1 => { a with c1 := k }
  | .ch2 => { a with c2 := k }
  | .ch3 => { a with c3 := k }
  | .ch4 => { a with c4 := k }

/-- `enabled[c] <- false`. -/
def Apu.disable (a : Apu) (c : Channel) : Apu := a.setChan c { a.chan c with enabled := false }

/-- `vol[c]`; channel 3 has none. -/
def Apu.vol (a : Apu) : Channel → BitVec 4
  | .ch1 => a.e1.vol
  | .ch2 => a.e2.vol
  | .ch3 => 0#4
  | .ch4 => a.e4.vol

/-- The registers of a channel, in address order. -/
def Apu.regs (a : Apu) : Channel → List Byte
  | .ch1 => [a.nr10, a.nr11, a.nr12, a.nr13, a.nr14]
  | .ch2 => [a.nr21, a.nr22, a.nr23, a.nr24]
  | .ch3 => [a.nr30, a.nr31, a.nr32, a.nr33, a.nr34]
  | .ch4 => [a.nr41, a.nr42, a.nr43, a.nr44]

/-- `MAXLEN[c]` (R365). -/
def maxLen : Channel → Nat
  | .ch3 => 256
  | .ch1 | .ch2 | .ch4 => 64

/-- `DacOn(c)` (R368). -/
def Apu.dacOn (a : Apu) : Channel → Bool
  | .ch1 => dacOnEnv a.nr12
  | .ch2 => dacOnEnv a.nr22
  | .ch3 => dacOnWave a.nr30
  | .ch4 => dacOnEnv a.nr42

/-- `if not DacOn(c) then enabled[c] <- false` (R368). -/
def Apu.dacGate (c : Channel) (a : Apu) : Apu := if a.dacOn c then a else a.disable c

/-! The units. -/

/-- `LengthClock(c)` (R364). -/
def Chan.lengthClock (k : Chan) : Chan :=
  if k.lengthEn && decide (0 < k.length) then
    { k with length := k.length - 1, enabled := k.enabled && k.length - 1 != 0 }
  else k

/-- The first two effects of a trigger (R371): enabled, and a zero length reloaded, one less on a length-clocking step
(R372). -/
def Chan.trigger (full : Nat) (fsLast : Option Nat) (k : Chan) : Chan :=
  { k with
    enabled := true
    length := if k.length = 0 then (if k.lengthEn && onLengthStep fsLast then full - 1 else full) else k.length }

/-- The volume's next value when the envelope counts (R367): it saturates. -/
def volumeStep (up : Bool) (v : BitVec 4) : BitVec 4 :=
  if up then (if v = 15#4 then v else v + 1#4) else (if v = 0#4 then v else v - 1#4)

/-- `EnvelopeClock(c)` (R367). -/
def Envelope.clock (nrc2 : Byte) (e : Envelope) : Envelope :=
  if e.timer - 1 = 0 then
    { vol := if envPeriod nrc2 = 0 then e.vol else volumeStep (envUp nrc2) e.vol
      timer := periodOr8 (envPeriod nrc2) }
  else { e with timer := e.timer - 1 }

/-- The envelope's part of a trigger (R371). -/
def Envelope.trigger (nrc2 : Byte) : Envelope := ⟨envInitial nrc2, periodOr8 (envPeriod nrc2)⟩

/-- `SweepTrigger()` (R380). -/
def Apu.sweepTrigger (a : Apu) : Apu :=
  let a' := { a with sweep :=
    { shadow := freqOf a.nr14 a.nr13
      timer := periodOr8 (sweepPeriod a.nr10)
      on := sweepPeriod a.nr10 != 0 || sweepShift a.nr10 != 0 } }
  if sweepShift a.nr10 != 0 && sweepOverflow a'.sweepCalc then a'.disable .ch1 else a'

/-- The frequency write-back of a sweep clock (R381). -/
def Apu.sweepStore (n : BitVec 11) (a : Apu) : Apu :=
  { a with
    sweep := { a.sweep with shadow := n }
    nr13 := n.extractLsb' 0 8
    nr14 := a.nr14.extractLsb' 3 5 ++ n.extractLsb' 8 3 }

/-- What a sweep clock does when the timer has run out, the sweep is on and its period is not zero (R381). -/
def Apu.sweepCompute (secondCheck : Bool) (a : Apu) : Apu :=
  if sweepOverflow a.sweepCalc then a.disable .ch1
  else if sweepShift a.nr10 != 0 then
    let a' := a.sweepStore (BitVec.ofNat 11 a.sweepCalc)
    if secondCheck && sweepOverflow a'.sweepCalc then a'.disable .ch1 else a'
  else a

/-- `SweepClock()` (R381). -/
def Apu.sweepClock (secondCheck : Bool) (a : Apu) : Apu :=
  if a.sweep.timer - 1 = 0 then
    let a' := { a with sweep := { a.sweep with timer := periodOr8 (sweepPeriod a.nr10) } }
    if a.sweep.on && sweepPeriod a.nr10 != 0 then a'.sweepCompute secondCheck else a'
  else { a with sweep := { a.sweep with timer := a.sweep.timer - 1 } }

/-! The generators (R395 to R399). -/

/-- `(2048 - freq) * 4` (R396, R399): 8192 at frequency 0, one more than the range of R67 (DEDUCED, log 14). -/
def squareReload (nrc4 nrc3 : Byte) : Nat := (2048 - (freqOf nrc4 nrc3).toNat) * 4

/-- `(2048 - freq) * 2` (R397, R399): 4096 at frequency 0, one more than the range of R67 (DEDUCED, log 14). -/
def waveReload (nr34 nr33 : Byte) : Nat := (2048 - (freqOf nr34 nr33).toNat) * 2

/-- `GenStep` of a square channel (R396). -/
def SquareGen.tick (reload : Nat) (g : SquareGen) : SquareGen :=
  if g.ftimer - 1 = 0 then ⟨reload, g.dutyPos + 1#3⟩ else { g with ftimer := g.ftimer - 1 }

/-- `GenSample` of a square channel (R396). -/
def SquareGen.sample (nrc1 : Byte) (vol : BitVec 4) (g : SquareGen) : BitVec 4 :=
  if (dutyPattern nrc1).getLsbD g.dutyPos.toNat then vol else 0#4

/-- `GenStep` of the wave channel (R397); `table` is the wave table. -/
def WaveGen.tick (reload : Nat) (table : List Byte) (g : WaveGen) : WaveGen :=
  if g.ftimer - 1 = 0 then
    let pos := g.wavePos + 1#5
    let b := table.getD (pos.toNat / 2) 0#8
    ⟨reload, pos, if pos.toNat % 2 = 0 then b.extractLsb' 4 4 else b.extractLsb' 0 4⟩
  else { g with ftimer := g.ftimer - 1 }

/-- `GenSample` of the wave channel (R397). -/
def WaveGen.sample (nr32 : Byte) (g : WaveGen) : BitVec 4 := g.waveLatch >>> waveShift nr32

/-- The noise channel's shift register one step on (R398). -/
def lfsrStep (short : Bool) (l : BitVec 15) : BitVec 15 :=
  let x := l.getLsbD 0 ^^ l.getLsbD 1
  let l' := (l >>> 1) ||| (BitVec.setWidth 15 (BitVec.ofBool x) <<< 14)
  if short then (l' &&& ~~~(1#15 <<< 6)) ||| (BitVec.setWidth 15 (BitVec.ofBool x) <<< 6) else l'

/-- `GenStep` of the noise channel (R398). -/
def NoiseGen.tick (nr43 : Byte) (g : NoiseGen) : NoiseGen :=
  if g.ftimer - 1 = 0 then ⟨noiseReload nr43, lfsrStep (nr43.getLsbD 3) g.lfsr⟩
  else { g with ftimer := g.ftimer - 1 }

/-- `GenSample` of the noise channel (R398). -/
def NoiseGen.sample (vol : BitVec 4) (g : NoiseGen) : BitVec 4 := if g.lfsr.getLsbD 0 then 0#4 else vol

/-- The wave table's bytes (R66). -/
def Apu.waveTable (draw : Nat) (a : Apu) : List Byte := (List.range 16).map (readCell .wave draw a.wave)

def GenTokens.token (t : GenTokens) : Channel → Nat
  | .ch1 => t.tok1
  | .ch2 => t.tok2
  | .ch3 => t.tok3
  | .ch4 => t.tok4

def GenTokens.set (t : GenTokens) (c : Channel) (n : Nat) : GenTokens :=
  match c with
  | .ch1 => { t with tok1 := n }
  | .ch2 => { t with tok2 := n }
  | .ch3 => { t with tok3 := n }
  | .ch4 => { t with tok4 := n }

/-- `GenStep(c)` (R395). -/
def Apu.genStep (src : GenSource) (draw : Nat) (c : Channel) (a : Apu) : Apu :=
  match src with
  | .supplied =>
    { a with
      supplied :=
        a.supplied.set c (Config.genStep c (a.regs c) (a.vol c) (a.waveTable draw) (a.supplied.token c)) }
  | .standard =>
    match c with
    | .ch1 => { a with g1 := a.g1.tick (squareReload a.nr14 a.nr13) }
    | .ch2 => { a with g2 := a.g2.tick (squareReload a.nr24 a.nr23) }
    | .ch3 => { a with g3 := a.g3.tick (waveReload a.nr34 a.nr33) (a.waveTable draw) }
    | .ch4 => { a with g4 := a.g4.tick a.nr43 }

/-- `GenTrigger(c)` (R395, R399). -/
def Apu.genTrigger (src : GenSource) (draw : Nat) (c : Channel) (a : Apu) : Apu :=
  match src with
  | .supplied =>
    { a with
      supplied :=
        a.supplied.set c (Config.genTrigger c (a.regs c) (a.vol c) (a.waveTable draw) (a.supplied.token c)) }
  | .standard =>
    match c with
    | .ch1 => { a with g1 := { a.g1 with ftimer := squareReload a.nr14 a.nr13 } }
    | .ch2 => { a with g2 := { a.g2 with ftimer := squareReload a.nr24 a.nr23 } }
    | .ch3 => { a with g3 := { a.g3 with ftimer := waveReload a.nr34 a.nr33, wavePos := 0#5 } }
    | .ch4 => { a with g4 := ⟨noiseReload a.nr43, 0x7FFF#15⟩ }

/-- `GenSample(c)` (R395). -/
def Apu.genSample (src : GenSource) (draw : Nat) (c : Channel) (a : Apu) : BitVec 4 :=
  match src with
  | .supplied => Config.genSample c (a.regs c) (a.vol c) (a.waveTable draw) (a.supplied.token c)
  | .standard =>
    match c with
    | .ch1 => a.g1.sample a.nr11 a.e1.vol
    | .ch2 => a.g2.sample a.nr21 a.e2.vol
    | .ch3 => a.g3.sample a.nr32
    | .ch4 => a.g4.sample a.e4.vol

/-! The trigger (R371). -/

/-- The channel, its envelope and its sweep at a trigger (R371), before the generator and the DAC. -/
def Apu.triggerUnits (c : Channel) (a : Apu) : Apu :=
  let a' := a.setChan c ((a.chan c).trigger (maxLen c) a.fsLast)
  match c with
  | .ch1 => Apu.sweepTrigger { a' with e1 := Envelope.trigger a.nr12 }
  | .ch2 => { a' with e2 := Envelope.trigger a.nr22 }
  | .ch3 => a'
  | .ch4 => { a' with e4 := Envelope.trigger a.nr42 }

/-- `Trigger(c)` (R371). -/
def Apu.trigger (src : GenSource) (draw : Nat) (c : Channel) (a : Apu) : Apu :=
  Apu.dacGate c (Apu.genTrigger src draw c (a.triggerUnits c))

/-! The writes of the channels' registers. -/

/-- A write the APU ignores while its power is off (R423). -/
def Apu.ifPower (a a' : Apu) : Apu := if a.power then a' else a

/-- `WR_NR10` (R383). -/
def Apu.writeNr10 (v : Byte) (a : Apu) : Apu := a.ifPower { a with nr10 := v &&& 0x7F#8 }

/-- `WR_NRc1` (R366). -/
def Apu.writeNrc1 (c : Channel) (v : Byte) (a : Apu) : Apu :=
  a.ifPower (match c with
    | .ch1 => { a with nr11 := v, c1 := { a.c1 with length := lengthLoad64 v } }
    | .ch2 => { a with nr21 := v, c2 := { a.c2 with length := lengthLoad64 v } }
    | .ch3 => { a with nr31 := v, c3 := { a.c3 with length := lengthLoad256 v } }
    | .ch4 => { a with nr41 := v, c4 := { a.c4 with length := lengthLoad64 v } })

/-- `WR_NRc2` for c = 1, 2, 4 and, for channel 3, `WR_NR30`: the register that holds the channel's DAC (R368). -/
def Apu.writeDacReg (c : Channel) (v : Byte) (a : Apu) : Apu :=
  a.ifPower (Apu.dacGate c (match c with
    | .ch1 => { a with nr12 := v }
    | .ch2 => { a with nr22 := v }
    | .ch3 => { a with nr30 := v }
    | .ch4 => { a with nr42 := v }))

/-- `WR_NRc3`: the frequency's low byte, of channel 4 the noise clock (R369). -/
def Apu.writeNrc3 (c : Channel) (v : Byte) (a : Apu) : Apu :=
  a.ifPower (match c with
    | .ch1 => { a with nr13 := v }
    | .ch2 => { a with nr23 := v }
    | .ch3 => { a with nr33 := v }
    | .ch4 => { a with nr43 := v })

/-- `WR_NR32` (R369). -/
def Apu.writeNr32 (v : Byte) (a : Apu) : Apu := a.ifPower { a with nr32 := v }

/-- What `WR_NRc4` stores before it triggers (R370). -/
def Apu.storeNrc4 (c : Channel) (v : Byte) (a : Apu) : Apu :=
  match c with
  | .ch1 => { a with nr14 := v &&& 0x47#8, c1 := { a.c1 with lengthEn := v.getLsbD 6 } }
  | .ch2 => { a with nr24 := v &&& 0x47#8, c2 := { a.c2 with lengthEn := v.getLsbD 6 } }
  | .ch3 => { a with nr34 := v &&& 0x47#8, c3 := { a.c3 with lengthEn := v.getLsbD 6 } }
  | .ch4 => { a with nr44 := v &&& 0x47#8, c4 := { a.c4 with lengthEn := v.getLsbD 6 } }

/-- `WR_NRc4` (R370). -/
def Apu.writeNrc4 (src : GenSource) (draw : Nat) (c : Channel) (v : Byte) (a : Apu) : Apu :=
  a.ifPower (if v.getLsbD 7 then (a.storeNrc4 c v).trigger src draw c else a.storeNrc4 c v)

/-- `WR_NR50` (R421). -/
def Apu.writeNr50 (v : Byte) (a : Apu) : Apu := a.ifPower { a with nr50 := v }

/-- `WR_NR51` (R421). -/
def Apu.writeNr51 (v : Byte) (a : Apu) : Apu := a.ifPower { a with nr51 := v }

/-- The power-off of `WR_NR52` (R423). -/
def Apu.powerOff (a : Apu) : Apu :=
  { a with
    nr10 := 0#8
    nr11 := 0#8
    nr12 := 0#8
    nr13 := 0#8
    nr14 := 0#8
    nr21 := 0#8
    nr22 := 0#8
    nr23 := 0#8
    nr24 := 0#8
    nr30 := 0#8
    nr31 := 0#8
    nr32 := 0#8
    nr33 := 0#8
    nr34 := 0#8
    nr41 := 0#8
    nr42 := 0#8
    nr43 := 0#8
    nr44 := 0#8
    nr50 := 0#8
    nr51 := 0#8
    c1 := ⟨false, 0, false⟩
    c2 := ⟨false, 0, false⟩
    c3 := ⟨false, 0, false⟩
    c4 := ⟨false, 0, false⟩
    e1 := ⟨0#4, 0⟩
    e2 := ⟨0#4, 0⟩
    e4 := ⟨0#4, 0⟩
    sweep := ⟨0#11, 0, false⟩
    power := false }

/-- `WR_NR52` (R423). -/
def Apu.writeNr52 (v : Byte) (a : Apu) : Apu :=
  if a.power && !v.getLsbD 7 then a.powerOff
  else if !a.power && v.getLsbD 7 then { a with power := true }
  else a

/-- A write of the wave table (R424). -/
def Apu.writeWave (i : Nat) (v : Byte) (a : Apu) : Apu := { a with wave := insert a.wave i v }

/-- A read of the wave table (R424). -/
def Apu.readWave (draw i : Nat) (a : Apu) : Byte := readCell .wave draw a.wave i

/-! The frame sequencer (R360 to R362). -/

/-- The length clocks of a step (R362). -/
def Apu.lengthClocks (a : Apu) : Apu :=
  { a with c1 := a.c1.lengthClock, c2 := a.c2.lengthClock, c3 := a.c3.lengthClock, c4 := a.c4.lengthClock }

/-- The envelope clocks of a step (R362). -/
def Apu.envelopeClocks (a : Apu) : Apu :=
  { a with e1 := a.e1.clock a.nr12, e2 := a.e2.clock a.nr22, e4 := a.e4.clock a.nr42 }

/-- `FrameStep()` (R362). -/
def Apu.frameStep (secondCheck : Bool) (a : Apu) : Apu :=
  let s := a.fsStep
  let a1 := if lenMask.getLsbD s then a.lengthClocks else a
  let a2 := if sweepMask.getLsbD s then a1.sweepClock secondCheck else a1
  let a3 := if envMask.getLsbD s then a2.envelopeClocks else a2
  { a3 with fsLast := some s, fsStep := (s + 1) % 8 }

/-- The frame sequencer's part of `TICK_APU` (R361). -/
def Apu.sequencerTick (secondCheck : Bool) (a : Apu) : Apu :=
  let a' := { a with fsCounter := (a.fsCounter + 1) % 8192 }
  if a'.fsCounter = 0 then a'.frameStep secondCheck else a'

/-- The generators' part of `TICK_APU` (R361). -/
def Apu.generatorTick (src : GenSource) (draw : Nat) (a : Apu) : Apu :=
  Apu.genStep src draw .ch4 (Apu.genStep src draw .ch3 (Apu.genStep src draw .ch2 (Apu.genStep src draw .ch1 a)))

end Sys2Proof.Machine
end

