-- ==== Sys2Proof/Machine/ApuMixer.lean ====
section
/-! DEFINITION. The mixer (47_apu_mixer.md) and the tick of the APU (R361). All arithmetic is exact (R412). -/

namespace Sys2Proof.Machine

/-- `out[c]` (R411). -/
def Apu.out (cfg : Config) (draw : Nat) (a : Apu) (c : Channel) : BitVec 4 :=
  if muted cfg.mute c || !(a.chan c).enabled then 0#4 else a.genSample cfg.gen draw c

/-- `amp[c] = DAC(out[c])` (R412). -/
def Apu.amp (cfg : Config) (draw : Nat) (a : Apu) (c : Channel) : Rat := cfg.dac.getD (a.out cfg draw c).toNat 0

/-- The sum of the amplitudes of the channels a side takes (R412). -/
def Apu.panned (cfg : Config) (draw : Nat) (a : Apu) (takes : Channel → Bool) : Rat :=
  (([Channel.ch1, .ch2, .ch3, .ch4].filter takes).map (a.amp cfg draw)).sum

/-- `VOL(v)` (R8, R412). -/
def volumeOf (cfg : Config) (v : Nat) : Rat := cfg.vol.getD v 0

/-- The left value of `Mix()` (R412). -/
def Apu.mixLeft (cfg : Config) (draw : Nat) (a : Apu) : Rat :=
  volumeOf cfg (leftVolume a.nr50) * a.panned cfg draw (routedLeft a.nr51) / 4

/-- The right value of `Mix()` (R412). -/
def Apu.mixRight (cfg : Config) (draw : Nat) (a : Apu) : Rat :=
  volumeOf cfg (rightVolume a.nr50) * a.panned cfg draw (routedRight a.nr51) / 4

/-- What the sink receives for a sample event: the pair through `TO_FLOAT` (R418). -/
def deliveredSample (left right : Rat) : Rat × Rat := (Config.toFloat left, Config.toFloat right)

/-- `MixerTick()` (R410). -/
def mixerTick (s : State) : State :=
  let n := s.apu.sampleCtr - 1
  if n = 0 then
    emit (.sample (s.apu.mixLeft s.cfg s.draws) (s.apu.mixRight s.cfg s.draws))
      (s.setApu { s.apu with sampleCtr := s.cfg.samplePeriod.val })
  else s.setApu { s.apu with sampleCtr := n }

/-- `TICK_APU` (R361). -/
def tickApu (s : State) : State :=
  mixerTick (s.setApu
    (Apu.generatorTick s.cfg.gen s.draws (s.apu.sequencerTick s.cfg.sweepSecondCheck)))

/-! Register reads (R420). -/

/-- `MASK(r)` (R152). -/
def apuReadMask : Place → Byte
  | .nr10 => 0x80#8
  | .nr11 => 0x3F#8
  | .nr13 => 0xFF#8
  | .nr14 => 0xBF#8
  | .nr21 => 0x3F#8
  | .nr23 => 0xFF#8
  | .nr24 => 0xBF#8
  | .nr30 => 0x7F#8
  | .nr31 => 0xFF#8
  | .nr32 => 0x9F#8
  | .nr33 => 0xFF#8
  | .nr34 => 0xBF#8
  | .nr41 => 0xFF#8
  | .nr44 => 0xBF#8
  | .nr52 => 0x70#8
  | _ => 0x00#8

end Sys2Proof.Machine
end

