-- ==== Sys2Proof/Machine/DmaUnit.lean ====
section
/-! DEFINITION. The registers of the two DMA engines: the OAM DMA trigger (43_oam_dma.md) and the HDMA registers
(44_hdma.md). The engines' ticks, which access the bus, are in Engines.lean. -/

namespace Sys2Proof.Machine

/-! OAM DMA. -/

/-- Gives the source segment back, if the engine holds one (R282, R286, R287). -/
def releaseSource (s : State) : State :=
  match s.dma.srcSeg with
  | some g => (s.setBlocked g false).setDma { s.dma with srcSeg := none }
  | none => s

/-- The engine started on the page `v` (R281, R282). -/
def Dma.start (v : Byte) (d : Dma) : Dma :=
  { d with
    reg := v
    active := true
    cycle := 0
    source := dmaSourceOf v
    readIdx := 0
    writeIdx := 0
    srcSeg := none }

/-- `WR_DMA` (R282): every value starts a transfer, or starts it anew (R288). -/
def writeDma (v : Byte) (s : State) : State :=
  let s' := if s.dma.active then releaseSource s else s
  (s'.setDma (s'.dma.start v)).setBlocked .oam true

/-! HDMA. -/

/-- `Start(v)` (R306). -/
def Hdma.start (vramBase : Addr) (v : Byte) (h : Hdma) : Hdma :=
  let h' := { h with src := h.srcStart, dst := h.dstStart vramBase, remaining := hdmaLength v }
  if v.getLsbD 7 then { h' with mode := .hblank, state := .waitHBlank }
  else { h' with mode := .gp, state := .read, stall := h.stall + 2 * hdmaLength v }

/-- `Cancel()` (R309). -/
def Hdma.cancel (h : Hdma) : Hdma := { h with state := .terminated }

/-- `WR_HDMA5` (R305). -/
def Hdma.writeControl (vramBase : Addr) (v : Byte) (h : Hdma) : Hdma :=
  if h.busy && h.mode == .hblank && !v.getLsbD 7 then h.cancel else h.start vramBase v

end Sys2Proof.Machine
end

