-- ==== Sys2Proof/Machine/External.lean ====
section
/-! DEFINITION. The handlers outside the block (R167): work RAM by R86, high RAM, the CPU's registers IF and IE (R463), and
those that are opaque: cartridge, joypad with its buttons, serial, speed switch, and high RAM where it is so configured. -/

namespace Sys2Proof.Machine

/-- A read of work RAM at an offset from the fixed region's first address (R84, R86). -/
def readWram (s : State) (off : Nat) : Byte :=
  readCell .workRam 0 s.ext.wram (wramCell s.cfg.hwMode s.ext.svbk off)

/-- A write of work RAM (R84, R86). -/
def writeWram (off : Nat) (v : Byte) (s : State) : State :=
  s.setExt { s.ext with wram := insert s.ext.wram (wramCell s.cfg.hwMode s.ext.svbk off) v }

/-- The token of an opaque handler's state (R167). -/
def opaqueToken (h : HandlerId) (s : State) : Nat :=
  match h with
  | .cartridge => s.ext.cartToken
  | .joypad => s.ext.joypToken
  | .serial => s.ext.serialToken
  | .cpuRegs => s.cpu.speedToken
  | .highRam => s.ext.hramToken
  | .workRam | .timer | .apu | .ppu | .oamDma | .hdma => 0

/-- The state with another token for an opaque handler (R167). -/
def setOpaqueToken (h : HandlerId) (n : Nat) (s : State) : State :=
  match h with
  | .cartridge => s.setExt { s.ext with cartToken := n }
  | .joypad => s.setExt { s.ext with joypToken := n }
  | .serial => s.setExt { s.ext with serialToken := n }
  | .cpuRegs => s.setCpu { s.cpu with speedToken := n }
  | .highRam => s.setExt { s.ext with hramToken := n }
  | .workRam | .timer | .apu | .ppu | .oamDma | .hdma => s

/-- A read of an opaque handler (R167, U19): a free value. -/
def readOpaque (h : HandlerId) (a : Addr) (s : State) : Byte := Config.extRead h (opaqueToken h s) a

/-- A write of an opaque handler (R167, U19): it changes that handler's own state only, in a way left free. -/
def writeOpaque (h : HandlerId) (a : Addr) (v : Byte) (s : State) : State :=
  setOpaqueToken h (Config.extWrite h (opaqueToken h s) a v) s

/-- A read of high RAM (R84, R167): of plain memory, or of an opaque handler. -/
def readHram (off : Nat) (a : Addr) (s : State) : Byte :=
  match s.cfg.highRam with
  | .memory => readCell .highRam 0 s.ext.hram off
  | .opaqueHandler => readOpaque .highRam a s

/-- A write of high RAM (R84, R167). -/
def writeHram (off : Nat) (a : Addr) (v : Byte) (s : State) : State :=
  s.setExt (match s.cfg.highRam with
    | .memory => { s.ext with hram := insert s.ext.hram off v }
    | .opaqueHandler => { s.ext with hramToken := Config.extWrite .highRam s.ext.hramToken a v })

/-! The joypad's buttons (R466). -/

/-- Whether a button is held down. -/
def Buttons.held (x : Buttons) : Button → Bool
  | .up => x.up
  | .down => x.down
  | .left => x.left
  | .right => x.right
  | .a => x.a
  | .b => x.b
  | .start => x.start
  | .select => x.select

/-- The buttons with one of them down (`true`) or up. -/
def Buttons.put (x : Buttons) (k : Button) (d : Bool) : Buttons :=
  match k with
  | .up => { x with up := d }
  | .down => { x with down := d }
  | .left => { x with left := d }
  | .right => { x with right := d }
  | .a => { x with a := d }
  | .b => { x with b := d }
  | .start => { x with start := d }
  | .select => { x with select := d }

/-- A press or release call: the button's state and the joypad's own state move. -/
def moveButton (k : Button) (d : Bool) (s : State) : State :=
  s.setExt { s.ext with
    buttons := s.ext.buttons.put k d
    joypToken := Config.joypadButton s.ext.joypToken k d }

/-- A press call (R466): a press transition that newly asserts a previously-unselected row requests interrupt 4; which rows
those are is the joypad's, so free. -/
def pressButton (k : Button) (s : State) : State :=
  if !s.ext.buttons.held k && Config.joypadAsserts s.ext.joypToken k then raiseIrq 4 (moveButton k true s)
  else moveButton k true s

/-- A release call (R466): it requests nothing. -/
def releaseButton (k : Button) (s : State) : State := moveButton k false s

/-- `TICK_SERIAL` (R447): a no-op where no serial device is attached; else an opaque step that may request interrupt 3. -/
def tickSerial (s : State) : State :=
  if s.cfg.serialAttached then
    let s' := setOpaqueToken .serial (Config.serialTick s.ext.serialToken) s
    if Config.serialIrq s.ext.serialToken then raiseIrq 3 s' else s'
  else s

end Sys2Proof.Machine
end

