-- ==== Sys2Proof/Machine/PpuUnit.lean ====
section
/-! DEFINITION. The PPU's registers and memories, LCD on and off, and the line and frame state machine of
41_ppu_line_and_stat.md, but for the pixel pipeline. -/

namespace Sys2Proof.Machine

/-- What the PPU sees of the rest of the machine: the parameters, which draw its unwritten memories hold, and whether the
OAM segment is blocked. -/
structure PpuEnv where
  cfg        : Config
  draw       : Nat
  oamBlocked : Bool
deriving DecidableEq, Repr

/-- The PPU's surroundings in a state. -/
def State.ppuEnv (s : State) : PpuEnv := ⟨s.cfg, s.draws, s.bus.blockedOam⟩

/-! The memories (R27, R28, R29). -/

/-- `VRAM[b][i]` (R27). -/
def PpuEnv.vram (e : PpuEnv) (p : Ppu) (b i : Nat) : Byte := readCell .vram e.draw p.vram (0x2000 * b + i)

/-- `OAM[i]` (R28). -/
def PpuEnv.oam (e : PpuEnv) (p : Ppu) (i : Nat) : Byte := readCell .oam e.draw p.oam i

/-- `PpuOamRead(i)` (R222): the PPU's own read sees the OAM block. -/
def PpuEnv.oamScanRead (e : PpuEnv) (p : Ppu) (i : Nat) : Byte :=
  if e.oamBlocked then e.cfg.blockedReadValue else e.oam p i

/-- `BGPAL[i]` (R29). -/
def PpuEnv.bgPal (e : PpuEnv) (p : Ppu) (i : Nat) : Byte := readCell .bgPal e.draw p.bgPal i

/-- `OBPAL[i]` (R29). -/
def PpuEnv.objPal (e : PpuEnv) (p : Ppu) (i : Nat) : Byte := readCell .objPal e.draw p.objPal i

/-- The VRAM bank a bus access reaches (R203). -/
def Ppu.busBank (mode : HwMode) (p : Ppu) : Nat :=
  match mode with
  | .cgb => p.vbk.toNat
  | .dmg => 0

/-- A bus read of VRAM (R203). -/
def Ppu.readVram (e : PpuEnv) (off : Nat) (p : Ppu) : Byte := e.vram p (p.busBank e.cfg.hwMode) off

/-- A bus write of VRAM (R203). -/
def Ppu.writeVram (mode : HwMode) (off : Nat) (v : Byte) (p : Ppu) : Ppu :=
  { p with vram := insert p.vram (0x2000 * p.busBank mode + off) v }

/-- A bus write of OAM (R205). -/
def Ppu.writeOam (i : Nat) (v : Byte) (p : Ppu) : Ppu := { p with oam := insert p.oam i v }

/-- The optional mode lock on VRAM (R204). -/
def Ppu.vramLocked (cfg : Config) (hb : Bool) (p : Ppu) : Bool :=
  cfg.ppuModeAccessLock && hb && p.lcdEnabled && p.mode == .pixelTransfer

/-- The optional mode lock on OAM (R204). -/
def Ppu.oamLocked (cfg : Config) (hb : Bool) (p : Ppu) : Bool :=
  cfg.ppuModeAccessLock && hb && p.lcdEnabled && (p.mode == .oamScan || p.mode == .pixelTransfer)

/-! The palette ports (R206, R207). -/

/-- The index field of BCPS or OCPS, bits 5:0 (R140). -/
def paletteIndexOf (spec : Byte) : Nat := (spec.extractLsb' 0 6).toNat

/-- What `WR_BCPS` or `WR_OCPS` stores (R206). -/
def paletteSpecStore (v : Byte) : Byte := v &&& 0xBF#8

/-- What `RD_BCPS` or `RD_OCPS` returns (R206). -/
def paletteSpecRead (spec : Byte) : Byte := spec ||| 0x40#8

/-- BCPS or OCPS after a write of the data port: the index counts on modulo 64 if bit 7 is set (R207). -/
def paletteSpecNext (spec : Byte) : Byte :=
  if spec.getLsbD 7 then spec.extractLsb' 6 2 ++ (spec.extractLsb' 0 6 + 1#6) else spec

/-- `RD_BCPD` (R207). -/
def Ppu.readBcpd (e : PpuEnv) (p : Ppu) : Byte := e.bgPal p (paletteIndexOf p.bcps)

/-- `RD_OCPD` (R207). -/
def Ppu.readOcpd (e : PpuEnv) (p : Ppu) : Byte := e.objPal p (paletteIndexOf p.ocps)

/-- `WR_BCPD` (R207). -/
def Ppu.writeBcpd (v : Byte) (p : Ppu) : Ppu :=
  { p with bgPal := insert p.bgPal (paletteIndexOf p.bcps) v, bcps := paletteSpecNext p.bcps }

/-- `WR_OCPD` (R207). -/
def Ppu.writeOcpd (v : Byte) (p : Ppu) : Ppu :=
  { p with objPal := insert p.objPal (paletteIndexOf p.ocps) v, ocps := paletteSpecNext p.ocps }

/-! LCD on and off (R195 to R197). -/

/-- `ScanInit()` (R221). -/
def Ppu.scanInit (p : Ppu) : Ppu := { p with spritesAt := [], lineSprites := 0, windowDrawn := false }

/-- What `LcdDisable()` sets, before it updates the STAT line (R196). -/
def Ppu.lcdOff (p : Ppu) : Ppu :=
  { p with
    ly := 0
    lineTicks := 0
    mode := .hblank
    bgFifo := []
    spFifo := []
    fetchState := .fetchTileSleep
    fetchX := 0
    spriteState := .idle
    lx := 0
    discard := 0
    inWindow := false
    windowDrawn := false
    winLy := 0
    spritesAt := []
    lineSprites := 0 }

/-- What `LcdEnable()` sets, before it updates the STAT line (R197). -/
def Ppu.lcdOn (p : Ppu) : Ppu := Ppu.scanInit { p with mode := .oamScan }

/-- `WR_LCDC` (R195). -/
def writeLcdc (v : Byte) (s : State) : State :=
  let old := s.ppu.lcdEnabled
  let p := { s.ppu with lcdc := v }
  if old && !v.getLsbD 7 then updateStatLine (s.setPpu p.lcdOff)
  else if !old && v.getLsbD 7 then updateStatLine (s.setPpu p.lcdOn)
  else s.setPpu p

/-- `WR_STAT` (R199). -/
def writeStat (v : Byte) (s : State) : State :=
  updateStatLine (s.setPpu { s.ppu with statEn := v.extractLsb' 3 4 })

/-- `WR_LYC` (R201). -/
def writeLyc (v : Byte) (s : State) : State := updateStatLine (s.setPpu { s.ppu with lyc := v })

/-! The end of a line (R184). -/

/-- `LineEnd()` (R184). -/
def lineEnd (s : State) : State :=
  let ly := (s.ppu.ly + 1) % 154
  let p := { s.ppu with lineTicks := 0, ly := ly }
  if ly = 144 then
    emit (.vblank p.fb s.draws) (raiseIrq 0 (s.setPpu { p with mode := .vblank }))
  else if ly < 144 then
    s.setPpu (Ppu.scanInit { p with winLy := if ly = 0 then 0 else p.winLy, mode := .oamScan })
  else s.setPpu p

end Sys2Proof.Machine
end

