-- ==== Sys2Proof/Machine/TimerUnit.lean ====
section
/-! DEFINITION. The Timer (45_timer.md): its increment, its registers and its tick. -/

namespace Sys2Proof.Machine

/-- `TIMA_RELOAD_DELAY` (R8, R9): fixed by the document. -/
def timaReloadDelay : Nat := 4

/-- `IncTima()` (R332); `hold` is `TIMA_RELOAD_HOLD`. -/
def Timer.incTima (hold : Nat) (t : Timer) : Timer :=
  let v := t.tima + 1#8
  { t with tima := v, reloadCtr := if v = 0#8 then timaReloadDelay + hold else t.reloadCtr }

/-- An edge test: TIMA is incremented if the signal was high before and is low in `t` (R331). -/
def Timer.onFall (hold : Nat) (old : Bool) (t : Timer) : Timer :=
  if old && !t.sig then t.incTima hold else t

/-- `RD_DIV` (R334). -/
def Timer.readDiv (t : Timer) : Byte := t.counter.extractLsb' 8 8

/-- `WR_DIV` (R335). -/
def Timer.writeDiv (hold : Nat) (t : Timer) : Timer :=
  let old := t.sig
  let t' := { t with counter := 0#16 }
  if old then t'.incTima hold else t'

/-- `WR_TIMA` (R337): cancels in the delay (R338), lost in the hold window (R339), stored otherwise. -/
def Timer.writeTima (hold : Nat) (v : Byte) (t : Timer) : Timer :=
  if hold < t.reloadCtr then { t with tima := v, reloadCtr := 0 }
  else if 0 < t.reloadCtr then t
  else { t with tima := v }

/-- `WR_TMA` (R340); `forward` is `TMA_FORWARD_IN_HOLD`. -/
def Timer.writeTma (hold : Nat) (forward : Bool) (v : Byte) (t : Timer) : Timer :=
  { t with tma := v, tima := if forward && decide (0 < t.reloadCtr) && decide (t.reloadCtr ≤ hold) then v else t.tima }

/-- `RD_TAC` (R342). -/
def Timer.readTac (t : Timer) : Byte := (0x1F#5 ++ t.tac : BitVec 8)

/-- `WR_TAC` (R341). -/
def Timer.writeTac (hold : Nat) (v : Byte) (t : Timer) : Timer :=
  Timer.onFall hold t.sig
    { t with tac := v.extractLsb' 0 3, selBit := muxOf (v.extractLsb' 0 2) }

/-- Part 1 of `TICK_TIMER` (R333): the reload counter, and whether it requests interrupt 2. -/
def Timer.reloadStep (hold : Nat) (t : Timer) : Timer × Bool :=
  if 0 < t.reloadCtr then
    if t.reloadCtr - 1 = hold then ({ t with reloadCtr := t.reloadCtr - 1, tima := t.tma }, true)
    else ({ t with reloadCtr := t.reloadCtr - 1 }, false)
  else (t, false)

/-- Part 2 of `TICK_TIMER` (R333): the free-running counter. -/
def Timer.countStep (hold : Nat) (t : Timer) : Timer :=
  Timer.onFall hold t.sig { t with counter := t.counter + 1#16 }

/-- `TICK_TIMER` (R333). -/
def tickTimer (s : State) : State :=
  let r := s.timer.reloadStep s.cfg.timaReloadHold
  let s' := if r.2 then raiseIrq 2 s else s
  s'.setTimer (r.1.countStep s.cfg.timaReloadHold)

end Sys2Proof.Machine
end

