-- ==== Sys2Proof/Machine/Bus.lean ====
section
/-! DEFINITION. The bus dispatcher (40_bus_dispatcher.md): the owner map, the routing of an access, what every place returns
and does, `REGISTER`, `UNREGISTER` and `BLOCK`. -/

namespace Sys2Proof.Machine

/-! The handlers' read and write rules, by place (R126, R167). -/

/-- What a place returns at an offset; `a` is the bus address, which opaque handlers see. -/
def readPlace (p : Place) (off : Nat) (a : Addr) (hb : Bool) (s : State) : Byte :=
  match p with
  | .vram => if s.ppu.vramLocked s.cfg hb then 0xFF#8 else s.ppu.readVram s.ppuEnv off
  | .oam => if s.ppu.oamLocked s.cfg hb then 0xFF#8 else s.ppuEnv.oam s.ppu off
  | .wave => s.apu.readWave s.draws off
  | .div => s.timer.readDiv
  | .tima => s.timer.tima
  | .tma => s.timer.tma
  | .tac => s.timer.readTac
  | .nr10 => s.apu.nr10 ||| apuReadMask .nr10
  | .nr11 => s.apu.nr11 ||| apuReadMask .nr11
  | .nr12 => s.apu.nr12 ||| apuReadMask .nr12
  | .nr13 => s.apu.nr13 ||| apuReadMask .nr13
  | .nr14 => s.apu.nr14 ||| apuReadMask .nr14
  | .nr21 => s.apu.nr21 ||| apuReadMask .nr21
  | .nr22 => s.apu.nr22 ||| apuReadMask .nr22
  | .nr23 => s.apu.nr23 ||| apuReadMask .nr23
  | .nr24 => s.apu.nr24 ||| apuReadMask .nr24
  | .nr30 => s.apu.nr30 ||| apuReadMask .nr30
  | .nr31 => s.apu.nr31 ||| apuReadMask .nr31
  | .nr32 => s.apu.nr32 ||| apuReadMask .nr32
  | .nr33 => s.apu.nr33 ||| apuReadMask .nr33
  | .nr34 => s.apu.nr34 ||| apuReadMask .nr34
  | .nr41 => s.apu.nr41 ||| apuReadMask .nr41
  | .nr42 => s.apu.nr42 ||| apuReadMask .nr42
  | .nr43 => s.apu.nr43 ||| apuReadMask .nr43
  | .nr44 => s.apu.nr44 ||| apuReadMask .nr44
  | .nr50 => s.apu.nr50 ||| apuReadMask .nr50
  | .nr51 => s.apu.nr51 ||| apuReadMask .nr51
  | .nr52 => s.apu.nr52Byte
  | .lcdc => s.ppu.lcdc
  | .stat => s.ppu.statByte
  | .scy => s.ppu.scy
  | .scx => s.ppu.scx
  | .ly => BitVec.ofNat 8 s.ppu.ly
  | .lyc => s.ppu.lyc
  | .dma => s.dma.reg
  | .bgp => s.ppu.bgp
  | .obp0 => s.ppu.obp0
  | .obp1 => s.ppu.obp1
  | .wy => s.ppu.wy
  | .wx => s.ppu.wx
  | .vbk => (0x7F#7 ++ s.ppu.vbk : BitVec 8)
  | .hdma1 => 0xFF#8
  | .hdma2 => 0xFF#8
  | .hdma3 => 0xFF#8
  | .hdma4 => 0xFF#8
  | .hdma5 => s.hdma.statusByte
  | .bcps => paletteSpecRead s.ppu.bcps
  | .bcpd => s.ppu.readBcpd s.ppuEnv
  | .ocps => paletteSpecRead s.ppu.ocps
  | .ocpd => s.ppu.readOcpd s.ppuEnv
  | .opri => (0x7F#7 ++ s.ppu.opri : BitVec 8)
  | .cartRom => readOpaque .cartridge a s
  | .cartRam => readOpaque .cartridge a s
  | .wramFixed => readWram s off
  | .wramBank => readWram s (0x1000 + off)
  | .wramEcho => readWram s off
  | .joyp => readOpaque .joypad a s
  | .serialRegs => readOpaque .serial a s
  | .ifReg => s.cpu.ifr
  | .speedSwitch => readOpaque .cpuRegs a s
  | .svbk => Config.svbkRead s.ext.svbk
  | .hram => readHram off a s
  | .ieReg => s.cpu.ie

/-- What a write does at an offset of a place; `a` is the bus address, which opaque handlers see. -/
def writePlace (p : Place) (off : Nat) (a : Addr) (v : Byte) (hb : Bool) (s : State) : State :=
  match p with
  | .vram => if s.ppu.vramLocked s.cfg hb then s else s.setPpu (s.ppu.writeVram s.cfg.hwMode off v)
  | .oam => if s.ppu.oamLocked s.cfg hb then s else s.setPpu (s.ppu.writeOam off v)
  | .wave => s.setApu (s.apu.writeWave off v)
  | .div => s.setTimer (s.timer.writeDiv s.cfg.timaReloadHold)
  | .tima => s.setTimer (s.timer.writeTima s.cfg.timaReloadHold v)
  | .tma => s.setTimer (s.timer.writeTma s.cfg.timaReloadHold s.cfg.tmaForwardInHold v)
  | .tac => s.setTimer (s.timer.writeTac s.cfg.timaReloadHold v)
  | .nr10 => s.setApu (s.apu.writeNr10 v)
  | .nr11 => s.setApu (s.apu.writeNrc1 .ch1 v)
  | .nr12 => s.setApu (s.apu.writeDacReg .ch1 v)
  | .nr13 => s.setApu (s.apu.writeNrc3 .ch1 v)
  | .nr14 => s.setApu (s.apu.writeNrc4 s.cfg.gen s.draws .ch1 v)
  | .nr21 => s.setApu (s.apu.writeNrc1 .ch2 v)
  | .nr22 => s.setApu (s.apu.writeDacReg .ch2 v)
  | .nr23 => s.setApu (s.apu.writeNrc3 .ch2 v)
  | .nr24 => s.setApu (s.apu.writeNrc4 s.cfg.gen s.draws .ch2 v)
  | .nr30 => s.setApu (s.apu.writeDacReg .ch3 v)
  | .nr31 => s.setApu (s.apu.writeNrc1 .ch3 v)
  | .nr32 => s.setApu (s.apu.writeNr32 v)
  | .nr33 => s.setApu (s.apu.writeNrc3 .ch3 v)
  | .nr34 => s.setApu (s.apu.writeNrc4 s.cfg.gen s.draws .ch3 v)
  | .nr41 => s.setApu (s.apu.writeNrc1 .ch4 v)
  | .nr42 => s.setApu (s.apu.writeDacReg .ch4 v)
  | .nr43 => s.setApu (s.apu.writeNrc3 .ch4 v)
  | .nr44 => s.setApu (s.apu.writeNrc4 s.cfg.gen s.draws .ch4 v)
  | .nr50 => s.setApu (s.apu.writeNr50 v)
  | .nr51 => s.setApu (s.apu.writeNr51 v)
  | .nr52 => s.setApu (s.apu.writeNr52 v)
  | .lcdc => writeLcdc v s
  | .stat => writeStat v s
  | .scy => s.setPpu { s.ppu with scy := v }
  | .scx => s.setPpu { s.ppu with scx := v }
  | .ly => s
  | .lyc => writeLyc v s
  | .dma => writeDma v s
  | .bgp => s.setPpu { s.ppu with bgp := v }
  | .obp0 => s.setPpu { s.ppu with obp0 := v }
  | .obp1 => s.setPpu { s.ppu with obp1 := v }
  | .wy => s.setPpu { s.ppu with wy := v }
  | .wx => s.setPpu { s.ppu with wx := v }
  | .vbk => s.setPpu { s.ppu with vbk := v.extractLsb' 0 1 }
  | .hdma1 => s.setHdma { s.hdma with srcHi := v }
  | .hdma2 => s.setHdma { s.hdma with srcLo := v }
  | .hdma3 => s.setHdma { s.hdma with dstHi := v }
  | .hdma4 => s.setHdma { s.hdma with dstLo := v }
  | .hdma5 => s.setHdma (s.hdma.writeControl (s.cfg.base .vram) v)
  | .bcps => s.setPpu { s.ppu with bcps := paletteSpecStore v }
  | .bcpd => s.setPpu (s.ppu.writeBcpd v)
  | .ocps => s.setPpu { s.ppu with ocps := paletteSpecStore v }
  | .ocpd => s.setPpu (s.ppu.writeOcpd v)
  | .opri => s.setPpu { s.ppu with opri := v.extractLsb' 0 1 }
  | .cartRom => writeOpaque .cartridge a v s
  | .cartRam => writeOpaque .cartridge a v s
  | .wramFixed => writeWram off v s
  | .wramBank => writeWram (0x1000 + off) v s
  | .wramEcho => writeWram off v s
  | .joyp => writeOpaque .joypad a v s
  | .serialRegs => writeOpaque .serial a v s
  | .ifReg => s.setCpu { s.cpu with ifr := v }
  | .speedSwitch => writeOpaque .cpuRegs a v s
  | .svbk => s.setExt { s.ext with svbk := v }
  | .hram => writeHram off a v s
  | .ieReg => s.setCpu { s.cpu with ie := v }

/-! Routing (R127, R163, R164). -/

/-- `owner[a]` (R22): the registered handler that claims the address. -/
def ownerOf (s : State) (a : Addr) : Option HandlerId :=
  s.bus.registered.find? fun h => s.cfg.claims h a

/-- Steps 2 and 3 of R127: the owner's place. -/
def routeOwner (s : State) (a : Addr) : Route :=
  match ownerOf s a with
  | none => .unmapped
  | some h =>
    match s.cfg.placeAt h a with
    | none => .unclaimed h
    | some p => .deliver p (a.toNat - (s.cfg.base p).toNat)

/-- Where an access goes (R127): the block test stands before the owner's. -/
def route (s : State) (a : Addr) (hb : Bool) : Route :=
  match s.cfg.segmentOf a with
  | none => routeOwner s a
  | some g => if hb && s.bus.blocked g then .blocked g else routeOwner s a

/-- What a read of a blocked segment returns (R163): the sentinel, or the last DMA byte with the quirk. -/
def blockedByte (s : State) (g : Segment) : Byte :=
  if s.cfg.extBlockQuirk && g == .general then s.bus.lastDmaByte else s.cfg.blockedReadValue

/-- `BusRead(a, hb)` (R163): the byte, and the state, which only a delivery outside the claimed set changes (R461). -/
def busRead (a : Addr) (hb : Bool) (s : State) : Byte × State :=
  match route s a hb with
  | .blocked g => (blockedByte s g, s)
  | .unmapped => (s.cfg.unmappedReadValue, s)
  | .unclaimed h => (s.cfg.unmappedReadValue, raiseFault (.unclaimedDelivery h a) s)
  | .deliver p off => (readPlace p off a hb s, s)

/-- `BusWrite(a, v, hb)` (R164). -/
def busWrite (a : Addr) (v : Byte) (hb : Bool) (s : State) : State :=
  match route s a hb with
  | .blocked _ => s
  | .unmapped => s
  | .unclaimed h => raiseFault (.unclaimedDelivery h a) s
  | .deliver p off => writePlace p off a v hb s

/-- A read operation: the byte goes to the issuer. -/
def issueRead (a : Addr) (hb : Bool) (s : State) : State :=
  (busRead a hb s).2.setRdata (some (busRead a hb s).1)

/-! Registration (R161, R162). -/

/-- The lowest address two places share in this configuration. -/
def sharedAddr (c : Config) (p q : Place) : Option Nat :=
  let lo := max (c.base p).toNat (c.base q).toNat
  let hi := min (min ((c.base p).toNat + p.size) ((c.base q).toNat + q.size)) 65536
  if lo < hi then some lo else none

/-- The addresses at which a place of `hid` begins to overlap a place of another registered handler. -/
def claimOverlaps (s : State) (hid : HandlerId) : List Nat :=
  (s.bus.registered.filter fun h => h != hid).flatMap fun h =>
    (s.cfg.claimedPlaces hid).flatMap fun p => (s.cfg.claimedPlaces h).filterMap (sharedAddr s.cfg p)

/-- The lowest address of `claims(hid)` that a different handler owns (R161, R460). -/
def claimConflict (s : State) (hid : HandlerId) : Option Nat := (claimOverlaps s hid).min?

/-- `REGISTER` (R161): the whole claimed set is checked before any entry is written. -/
def registerHandler (hid : HandlerId) (s : State) : State :=
  match claimConflict s hid with
  | some a => raiseFault (.duplicateClaim hid (BitVec.ofNat 16 a)) s
  | none =>
    if s.cfg.claimedPlaces hid = [] then s
    else
      s.setBus { s.bus with
        registered := HandlerId.all.filter fun h => h == hid || s.bus.registered.contains h }

/-- `UNREGISTER` (R162). -/
def unregisterHandler (hid : HandlerId) (s : State) : State :=
  s.setBus { s.bus with registered := s.bus.registered.filter fun h => h != hid }

end Sys2Proof.Machine
end

