-- ==== Sys2Proof/Machine/Engines.lean ====
section
/-! DEFINITION. The ticks of the two DMA engines, which access the bus with `hb = 0` (R82): 43_oam_dma.md section 3,
44_hdma.md section 4. -/

namespace Sys2Proof.Machine

/-! OAM DMA. -/

/-- The first read takes the segment of the source's base address, if that is GENERAL (R285). -/
def dmaTakeSource (s : State) : State :=
  match s.cfg.segmentOf s.dma.source with
  | some .general => (s.setBlocked .general true).setDma { s.dma with srcSeg := some .general }
  | some .oam => s
  | none => s

/-- `ReadStep()` (R285) of group `g`. -/
def dmaReadStep (g : Nat) (s : State) : State :=
  let s0 := if g = 0 then dmaTakeSource s else s
  let r := busRead (s0.dma.source + BitVec.ofNat 16 s0.dma.readIdx) false s0
  (r.2.setBus { r.2.bus with lastDmaByte := r.1 }).setDma
    { r.2.dma with pending := r.1, readIdx := r.2.dma.readIdx + 1 }

/-- `WriteStep()` (R286) of group `g`. -/
def dmaWriteStep (g : Nat) (s : State) : State :=
  let s0 := busWrite (s.cfg.base .oam + BitVec.ofNat 16 s.dma.writeIdx) s.dma.pending false s
  let s1 := s0.setDma { s0.dma with writeIdx := s0.dma.writeIdx + 1 }
  if g = 160 then releaseSource s1 else s1

/-- `EndStep()` (R287). -/
def dmaEndStep (s : State) : State :=
  releaseSource ((s.setDma { s.dma with active := false, cycle := 0 }).setBlocked .oam false)

/-- The number of ticks of a transfer, `160 * 4 + 4` (R280). -/
def dmaLength : Nat := 644

/-- The read or write of tick `c` (R284). -/
def dmaWork (c : Nat) (s : State) : State :=
  if c % 4 = 0 && decide (1 ≤ c / 4) then dmaWriteStep (c / 4) s
  else if c % 4 = 1 && decide (c / 4 ≤ 159) then dmaReadStep (c / 4) s
  else s

/-- `TICK_DMA` (R284). -/
def tickDma (s : State) : State :=
  if s.dma.active then
    let c := s.dma.cycle
    let s0 := dmaWork c s
    let s1 := s0.setDma { s0.dma with cycle := c + 1 }
    if c + 1 = dmaLength then dmaEndStep s1 else s1
  else s

/-! HDMA. -/

/-- State `Read` (R312). -/
def hdmaReadStep (s : State) : State :=
  let r := busRead s.hdma.src false s
  r.2.setHdma { r.2.hdma with pending := r.1, src := r.2.hdma.src + 1#16, state := .write }

/-- The destination cursor after a byte: it wraps inside VRAM (R313). -/
def hdmaNextDst (vramBase dst : Addr) : Addr := vramBase + ((dst - vramBase + 1#16) &&& 0x1FFF#16)

/-- The engine's state after a byte (R313). -/
def hdmaNextState (mode : HdmaMode) (remaining : Nat) : HdmaState :=
  if remaining = 0 then .idle
  else if mode == .hblank && remaining % 16 = 0 then .waitNotHBlank
  else .read

/-- State `Write` (R313). -/
def hdmaWriteStep (s : State) : State :=
  let s0 := busWrite s.hdma.dst s.hdma.pending false s
  s0.setHdma { s0.hdma with
    dst := hdmaNextDst (s.cfg.base .vram) s0.hdma.dst
    remaining := s0.hdma.remaining - 1
    state := hdmaNextState s0.hdma.mode (s0.hdma.remaining - 1) }

/-- `TICK_HDMA` (R312). -/
def tickHdma (s : State) : State :=
  match s.hdma.state with
  | .idle => s
  | .terminated => s
  | .waitHBlank => if s.ppu.mode == .hblank then s.setHdma { s.hdma with state := .read } else s
  | .waitNotHBlank => if s.ppu.mode != .hblank then s.setHdma { s.hdma with state := .waitHBlank } else s
  | .read => hdmaReadStep s
  | .write => hdmaWriteStep s

end Sys2Proof.Machine
end

