-- ==== Sys2Proof/Machine/PpuPipeline.lean ====
section
/-! DEFINITION. The PPU's pixel pipeline (42_ppu_pixel_pipeline.md): OAM scan, tile fetcher, sprite fetcher, window, pixel
output and mixing; and the dot, `TICK_PPU` (R183). -/

namespace Sys2Proof.Machine

/-! OAM scan. -/

/-- The DMG order of a queue: a record goes in after the last one whose x is not above its own (R223). -/
def insertByX (r : Sprite) : List Sprite → List Sprite
  | [] => [r]
  | a :: q => if (a :: q).any (fun b => decide (b.x.toNat ≤ r.x.toNat)) then a :: insertByX r q else r :: a :: q

/-- Where a selected sprite goes in its queue (R223). -/
def enqueueSprite (mode : HwMode) (q : List Sprite) (r : Sprite) : List Sprite :=
  match mode with
  | .cgb => q ++ [r]
  | .dmg => insertByX r q

/-- The key of a sprite: the screen x of its first visible pixel, `max(x, 8) - 8` (R41). -/
def spriteKey (x : Byte) : Nat := max x.toNat 8 - 8

/-- Whether line `ly` crosses a sprite at `y` of height `h` (R223), over naturals. -/
def onLine (ly h : Nat) (y : Byte) : Bool := decide (y.toNat ≤ ly + 16) && decide (ly + 16 < y.toNat + h)

/-- The examination of OAM entry `i` (R223). -/
def Ppu.scanEntry (e : PpuEnv) (i : Nat) (p : Ppu) : Ppu :=
  let y := e.oamScanRead p (4 * i)
  let x := e.oamScanRead p (4 * i + 1)
  if decide (p.lineSprites < 10) && onLine p.ly p.spriteHeight y then
    { p with
      spritesAt := setQueue p.spritesAt (spriteKey x)
        (enqueueSprite e.cfg.hwMode (queueAt p.spritesAt (spriteKey x)) ⟨i, y, x⟩)
      lineSprites := p.lineSprites + 1 }
  else p

/-- `OamScanStep(d)` (R223): one entry on every second dot. -/
def Ppu.oamScanStep (e : PpuEnv) (d : Nat) (p : Ppu) : Ppu :=
  if d % 2 = 1 then p.scanEntry e ((d - 1) / 2) else p

/-- `PipelineInit()` (R224). -/
def Ppu.pipelineInit (p : Ppu) : Ppu :=
  { p with
    bgFifo := []
    spFifo := []
    fetchState := .fetchTileSleep
    fetchX := 0
    spriteState := .idle
    lx := 0
    inWindow := false
    discard := p.scx.toNat % 8 }

/-! The tile fetcher. -/

/-- The offset in VRAM of the tile-map entry to fetch (R231). -/
def Ppu.mapOffset (p : Ppu) : Nat :=
  if p.inWindow then
    (if p.windowMapHigh then 0x1C00 else 0x1800) + 32 * (p.winLy / 8 % 32) + p.fetchX % 32
  else
    (if p.backgroundMapHigh then 0x1C00 else 0x1800) + 32 * ((p.ly + p.scy.toNat) % 256 / 8)
      + (p.scx.toNat / 8 + p.fetchX) % 32

/-- `FETCH_TILE` (R231). -/
def Ppu.fetchTile (e : PpuEnv) (p : Ppu) : Ppu :=
  { p with
    fTile := e.vram p 0 p.mapOffset
    fAttr := match e.cfg.hwMode with
      | .cgb => e.vram p 1 p.mapOffset
      | .dmg => 0#8
    fetchState := .fetchLowSleep }

/-- The row of the tile to fetch, flipped vertically if the attribute asks for it (R232). -/
def Ppu.tileRow (p : Ppu) : Nat :=
  let row := if p.inWindow then p.winLy % 8 else (p.ly + p.scy.toNat) % 8
  if attrVFlip p.fAttr then 7 - row else row

/-- The first data byte of the fetched tile (R232): unsigned from 0x0000 or signed from 0x1000. -/
def Ppu.tileBase (p : Ppu) : Nat :=
  if p.unsignedTiles then 16 * p.fTile.toNat else (0x1000 + 16 * p.fTile.toInt).toNat

/-- `FETCH_LOW` (R232). -/
def Ppu.fetchLow (e : PpuEnv) (p : Ppu) : Ppu :=
  let a := p.tileBase + 2 * p.tileRow
  { p with
    fAddr := a
    fLow := flipIf p.fAttr (e.vram p (attrBank p.fAttr) a)
    fetchState := .fetchHighSleep }

/-- `FETCH_HIGH` (R233). -/
def Ppu.fetchHigh (e : PpuEnv) (p : Ppu) : Ppu :=
  { p with
    fHigh := flipIf p.fAttr (e.vram p (attrBank p.fAttr) (p.fAddr + 1))
    fetchState := if e.cfg.pushSleep then .pushSleep else .push }

/-- Lane `i` of a push (R236, R237). -/
def Ppu.backgroundPixel (p : Ppu) (i : Nat) : Pixel :=
  ⟨rowPixel p.fLow p.fHigh i, attrPalette p.fAttr, attrPriority p.fAttr, 0⟩

/-- `PUSH` (R236): into an empty FIFO only; else tried again on the next dot. -/
def Ppu.push (p : Ppu) : Ppu :=
  match p.bgFifo with
  | [] =>
    { p with
      bgFifo := (List.range 8).map p.backgroundPixel
      fetchX := (p.fetchX + 1) % 32
      fetchState := .fetchTileSleep }
  | _ :: _ => p

/-- `FetcherStep()` (R230): one sub-state a dot. -/
def Ppu.fetcherStep (e : PpuEnv) (p : Ppu) : Ppu :=
  match p.fetchState with
  | .fetchTileSleep => { p with fetchState := .fetchTile }
  | .fetchTile => p.fetchTile e
  | .fetchLowSleep => { p with fetchState := .fetchLow }
  | .fetchLow => p.fetchLow e
  | .fetchHighSleep => { p with fetchState := .fetchHigh }
  | .fetchHigh => p.fetchHigh e
  | .pushSleep => { p with fetchState := .push }
  | .push => p.push

/-! The sprite fetcher. -/

/-- `SP_OAM` (R243). -/
def Ppu.spriteOam (e : PpuEnv) (p : Ppu) : Ppu :=
  { p with
    sTile := e.oamScanRead p (4 * p.curSprite.index + 2)
    sAttr := e.oamScanRead p (4 * p.curSprite.index + 3)
    spriteState := .lowSleep }

/-- The row of the sprite on this line, flipped vertically if the attribute asks for it (R244). -/
def Ppu.spriteRow (p : Ppu) : Nat :=
  let h := p.spriteHeight
  let row := (((p.ly : Int) + 16 - p.curSprite.y.toNat) % h).toNat
  if attrVFlip p.sAttr then h - 1 - row else row

/-- The sprite's tile: of a tall sprite, bit 0 is cleared (R244). -/
def Ppu.spriteTile (p : Ppu) : Byte := if p.tallSprites then p.sTile &&& 0xFE#8 else p.sTile

/-- The VRAM bank of the sprite's data (R244). -/
def Ppu.spriteBank (mode : HwMode) (p : Ppu) : Nat :=
  match mode with
  | .cgb => attrBank p.sAttr
  | .dmg => 0

/-- `SP_LOW` (R244). -/
def Ppu.spriteLow (e : PpuEnv) (p : Ppu) : Ppu :=
  let a := 16 * p.spriteTile.toNat + 2 * p.spriteRow
  { p with
    sAddr := a
    sLow := flipIf p.sAttr (e.vram p (p.spriteBank e.cfg.hwMode) a)
    spriteState := .highSleep }

/-- Pixel `j` of the fetched sprite row (R245). -/
def Ppu.spritePixel (mode : HwMode) (p : Ppu) (j : Nat) : Pixel where
  colorIndex := rowPixel p.sLow p.sHigh j
  paletteIndex := match mode with
    | .cgb => attrPalette p.sAttr
    | .dmg => if attrDmgPalette p.sAttr then 1#3 else 0#3
  backgroundPriority := attrPriority p.sAttr
  spritePriority := p.curSprite.index

/-- Whether sprite pixel `r` replaces the pixel `e` that is in the FIFO (R245). -/
def replaces (mode : HwMode) (r e : Pixel) : Bool :=
  r.colorIndex != 0#2 && (e.colorIndex == 0#2 || (mode == .cgb && decide (r.spritePriority < e.spritePriority)))

/-- The merge of sprite pixels into the sprite FIFO, from its head on (R245). -/
def mergePixels (mode : HwMode) : List Pixel → List Pixel → List Pixel
  | [], q => q
  | r :: rs, [] => r :: mergePixels mode rs []
  | r :: rs, e :: q => (if replaces mode r e then r else e) :: mergePixels mode rs q

/-- The pixels of a sprite left of the screen (R245). -/
def spriteSkip (x : Byte) : Nat := 8 - x.toNat

/-- `SP_HIGH` (R244), then the merge (R245). -/
def Ppu.spriteHigh (e : PpuEnv) (p : Ppu) : Ppu :=
  let p' := { p with sHigh := flipIf p.sAttr (e.vram p (p.spriteBank e.cfg.hwMode) (p.sAddr + 1)) }
  { p' with
    spFifo := mergePixels e.cfg.hwMode
      (((List.range 8).drop (spriteSkip p'.curSprite.x)).map (p'.spritePixel e.cfg.hwMode)) p'.spFifo
    spriteState := .idle }

/-- `SpriteFetchStep()` (R242): one state a dot. -/
def Ppu.spriteFetchStep (e : PpuEnv) (p : Ppu) : Ppu :=
  match p.spriteState with
  | .idle => p
  | .oamSleep => { p with spriteState := .oam }
  | .oam => p.spriteOam e
  | .lowSleep => { p with spriteState := .low }
  | .low => p.spriteLow e
  | .highSleep => { p with spriteState := .high }
  | .high => p.spriteHigh e

/-- Part 1 of `PipelineStep` (R225, R240): the sprite trigger. -/
def Ppu.spriteTrigger (p : Ppu) : Ppu :=
  if p.spriteState == .idle && p.spritesEnabled then
    match queueAt p.spritesAt p.lx with
    | [] => p
    | r :: q => { p with curSprite := r, spritesAt := setQueue p.spritesAt p.lx q, spriteState := .oamSleep }
  else p

/-! The window. -/

/-- The trigger condition of the window (R250). -/
def Ppu.windowTriggers (mode : HwMode) (p : Ppu) : Bool :=
  !p.inWindow && p.windowEnabled && (mode == .cgb || p.lcdcBit0) && decide (p.wy.toNat ≤ p.ly)
    && decide (p.wx.toNat ≤ p.lx + 7)

/-- `WindowCheck()` (R250). -/
def Ppu.windowCheck (mode : HwMode) (p : Ppu) : Ppu :=
  if p.windowTriggers mode then
    { p with
      inWindow := true
      windowDrawn := true
      bgFifo := []
      fetchState := .fetchTileSleep
      fetchX := 0
      discard := 0 }
  else p

/-! Pixel output. -/

/-- The source `Mix` selects (R261). -/
inductive Shown where
  | sprite (c : BitVec 2) (pal : BitVec 3)
  | background (c : BitVec 2) (pal : BitVec 3)
  | blank
deriving DecidableEq, Repr

/-- In DMG mode with LCDC bit 0 clear the background is blank (R261). -/
def Ppu.backgroundOff (mode : HwMode) (p : Ppu) : Bool := mode == .dmg && !p.lcdcBit0

/-- Whether a sprite pixel is shown over the background pixel (R261). -/
def Ppu.spriteWins (mode : HwMode) (p : Ppu) (bg sp : Pixel) : Bool :=
  sp.colorIndex != 0#2 && p.spritesEnabled
    && ((p.backgroundOff mode || bg.colorIndex == 0#2)
      || (mode == .cgb && !p.lcdcBit0)
      || (!sp.backgroundPriority && !(mode == .cgb && bg.backgroundPriority)))

/-- What is shown where no sprite wins (R261). -/
def Ppu.mixBackground (mode : HwMode) (p : Ppu) (bg : Pixel) : Shown :=
  if p.backgroundOff mode then .blank else .background bg.colorIndex bg.paletteIndex

/-- `Mix(bg, sp)` (R261). -/
def Ppu.mix (mode : HwMode) (p : Ppu) (bg : Pixel) : Option Pixel → Shown
  | none => p.mixBackground mode bg
  | some sp => if p.spriteWins mode bg sp then .sprite sp.colorIndex sp.paletteIndex else p.mixBackground mode bg

/-- `Colour(m)` (R262). -/
def Ppu.colour (e : PpuEnv) (p : Ppu) (m : Shown) : Colour :=
  match e.cfg.hwMode with
  | .dmg =>
    match m with
    | .background c _ => shadeColour e.cfg.dmgShade (shadeOf p.bgp c)
    | .sprite c pal => shadeColour e.cfg.dmgShade (shadeOf (if pal = 0#3 then p.obp0 else p.obp1) c)
    | .blank => shadeColour e.cfg.dmgShade 0#2
  | .cgb =>
    match m with
    | .background c pal => cgbColour (e.bgPal p (paletteCell pal c)) (e.bgPal p (paletteCell pal c + 1))
    | .sprite c pal => cgbColour (e.objPal p (paletteCell pal c)) (e.objPal p (paletteCell pal c + 1))
    | .blank => shadeColour e.cfg.dmgShade 0#2

/-- The framebuffer cell of row `y`, column `x` (R34). -/
def fbCell (y x : Nat) : Nat := 160 * y + x

/-- `PixelOutStep()` (R260, R263). -/
def Ppu.pixelOutStep (e : PpuEnv) (p : Ppu) : Ppu :=
  match p.bgFifo with
  | [] => p
  | bg :: rest =>
    if 0 < p.discard then { p with bgFifo := rest, discard := p.discard - 1 }
    else
      { p with
        bgFifo := rest
        spFifo := p.spFifo.tail
        fb := insert p.fb (fbCell p.ly p.lx) (p.colour e (p.mix e.cfg.hwMode bg p.spFifo.head?))
        lx := p.lx + 1 }

/-- `PipelineStep()` (R225): sprite trigger; a sprite state, or else window, fetcher and pixel. -/
def Ppu.pipelineStep (e : PpuEnv) (p : Ppu) : Ppu :=
  let p' := p.spriteTrigger
  if p'.spriteState == .idle then Ppu.pixelOutStep e (Ppu.fetcherStep e (p'.windowCheck e.cfg.hwMode))
  else p'.spriteFetchStep e

/-! The dot. -/

/-- Step 1 of `TICK_PPU` (R183): the work of the dot, by the mode at its start. -/
def Ppu.dotWork (e : PpuEnv) (p : Ppu) : Ppu :=
  match p.mode with
  | .oamScan => p.oamScanStep e p.lineTicks
  | .pixelTransfer => p.pipelineStep e
  | .hblank | .vblank => p

/-- Step 3 of `TICK_PPU` (R183): the mode changes inside the line. The count of window lines follows R183 and so reaches 144
after line 143, where R33 gives it the range 0 to 143 (DEDUCED, log 14). -/
def Ppu.modeChange (p : Ppu) : Ppu :=
  if p.mode == .oamScan && decide (p.lineTicks = 80) then Ppu.pipelineInit { p with mode := .pixelTransfer }
  else if p.mode == .pixelTransfer && decide (p.lx = 160) then
    { p with mode := .hblank, winLy := if p.windowDrawn then p.winLy + 1 else p.winLy }
  else p

/-- Steps 1 to 3 of `TICK_PPU` (R183). -/
def Ppu.dot (e : PpuEnv) (p : Ppu) : Ppu :=
  let p' := p.dotWork e
  Ppu.modeChange { p' with lineTicks := p'.lineTicks + 1 }

/-- `TICK_PPU` (R183). -/
def tickPpu (s : State) : State :=
  if s.ppu.lcdEnabled then
    let s' := s.setPpu (s.ppu.dot s.ppuEnv)
    updateStatLine (if s'.ppu.lineTicks = 456 then lineEnd s' else s')
  else s

end Sys2Proof.Machine
end

