-- ==== Sys2Proof/Machine/Fanout.lean ====
section
/-! DEFINITION. The tick fan-out (48_tick_fanout.md): `IO.Tick`, the order of the devices, double speed, and the handling of
the HDMA stall. -/

namespace Sys2Proof.Machine

/-- `SlowGroup()` (R440). -/
def slowGroup (s : State) : State := tickHdma (tickApu (tickPpu s))

/-- Timer, Serial and OAM DMA, once for every CPU cycle (R440). -/
def fastGroup (s : State) : State := tickDma (tickSerial (tickTimer s))

/-- One CPU cycle of `IOTICK` (R440). -/
def cycleTick (ds : Bool) (s : State) : State :=
  let s0 := fastGroup s
  if ds then
    if s0.halfPhase then slowGroup (s0.setHalfPhase false) else s0.setHalfPhase true
  else slowGroup (s0.setHalfPhase false)

/-- How often the loop of R440 calls `SlowGroup`. -/
def slowCalls (cycles : Nat) (ds halfPhase : Bool) : Nat :=
  if ds then (cycles + halfPhase.toNat) / 2 else cycles

/-- `half_phase` after the loop of R440. -/
def halfPhaseAfter (cycles : Nat) (ds halfPhase : Bool) : Bool :=
  if cycles = 0 then halfPhase
  else if ds then decide ((cycles + halfPhase.toNat) % 2 = 1)
  else false

/-- `IOTICK` with `TICK_INTERLEAVE = per_group` (R441): device by device over the whole group. -/
def groupTick (cycles : Nat) (ds : Bool) (s : State) : State :=
  let k := slowCalls cycles ds s.halfPhase
  let s1 := repeatN cycles tickTimer s
  let s2 := repeatN cycles tickSerial s1
  let s3 := repeatN cycles tickDma s2
  let s4 := s3.setHalfPhase (halfPhaseAfter cycles ds s.halfPhase)
  let s5 := repeatN k tickPpu s4
  let s6 := repeatN k tickApu s5
  repeatN k tickHdma s6

/-- `IOTICK cycles, ds` (R440, R441). -/
def ioTick (cycles : Nat) (ds : Bool) (s : State) : State :=
  match s.cfg.tickInterleave with
  | .perCycle => repeatN cycles (cycleTick ds) s
  | .perGroup => groupTick cycles ds s

/-- The orchestrator's duty after a CPU step (R308, R445): it takes the stall count and runs it off, twice over in double
speed; with none owed nothing happens. -/
def takeStall (s : State) : State :=
  let k := s.hdma.stall
  let s' := s.setHdma { s.hdma with stall := 0 }
  if s.cpu.doubleSpeed then ioTick (2 * k) true s' else ioTick k false s'

end Sys2Proof.Machine
end

