-- ==== Sys2Proof/Machine/Cpu.lean ====
section
/-! DEFINITION. The external CPU's side of the interrupt contract (R463 to R476), as far as the spec gives it: taking an
interrupt, HALT with its halt bug, STOP with the speed switch, the fetch of a byte, and the CPU's `Tick()`. Its instruction
set is outside the spec (R6): what an instruction does comes in as a list of acts (log 22). -/

namespace Sys2Proof.Machine

/-- `IE & IF & 0x1F` (R471), of the CPU's registers themselves and by no bus access, so whatever is registered (DESIGN CHOICE,
log 21: N36 leaves it open). -/
def Cpu.pendingEnabled (c : Cpu) : Byte := c.ie &&& c.ifr &&& 0x1F#8

/-- The lowest set bit, 0 to 4, of a byte (R467). -/
def lowestBit (b : Byte) : Nat :=
  if b.getLsbD 0 then 0
  else if b.getLsbD 1 then 1
  else if b.getLsbD 2 then 2
  else if b.getLsbD 3 then 3
  else 4

/-- The vector of interrupt `n`, `0x0040 + 8 * n` (R473). -/
def vectorOf (n : Nat) : Addr := BitVec.ofNat 16 (0x40 + 8 * n)

/-- The push of the PC (R472): high byte at `SP - 1`, then low byte at `SP - 2`, with `hb = 1`. -/
def pushPc (s : State) : State :=
  let s1 := busWrite (s.cpu.sp - 1#16) (s.cpu.pc.extractLsb' 8 8) true s
  let s2 := busWrite (s.cpu.sp - 2#16) (s.cpu.pc.extractLsb' 0 8) true s1
  s2.setCpu { s2.cpu with sp := s.cpu.sp - 2#16 }

/-- What the service routine does before its cycles are fed on (R472): push PC, clear the flag, jump to the vector, disable
the master enable; the flag is cleared in IF itself, by no bus access (log 21). -/
def enterInterrupt (n : Nat) (s : State) : State :=
  let s1 := pushPc (s.setCpu { s.cpu with run := .servicingInterrupt })
  s1.setCpu { s1.cpu with
    ifr := s1.cpu.ifr &&& ~~~(1#8 <<< n)
    pc := vectorOf n
    ime := false }

/-- The interrupt service routine (R472): five machine cycles, 20 to the devices; then the CPU runs. -/
def serviceInterrupt (n : Nat) (s : State) : State :=
  let s1 := ioTick 20 s.cpu.doubleSpeed (enterInterrupt n s)
  s1.setCpu { s1.cpu with run := .running }

/-- A halted or stopped CPU wakes (R471, R475, R476); an armed switch takes effect when STOP exits. -/
def Cpu.wake (c : Cpu) : Cpu :=
  match c.run with
  | .stopped =>
    { c with
      run := .running
      doubleSpeed := if c.switchArmed then !c.doubleSpeed else c.doubleSpeed
      switchArmed := false }
  | .halted => { c with run := .running }
  | .running | .servicingInterrupt => c

/-- The CPU looks for an interrupt (R467, R471): an enabled pending one wakes it, and is serviced under the master enable. -/
def cpuService (s : State) : State :=
  if s.cpu.pendingEnabled = 0#8 then s
  else
    let s' := s.setCpu s.cpu.wake
    if s.cpu.ime then serviceInterrupt (lowestBit s.cpu.pendingEnabled) s' else s'

/-- The CPU fetches a byte at its PC, which counts on, but for once after the halt bug (R475). -/
def cpuFetch (s : State) : State :=
  let s' := issueRead s.cpu.pc true s
  s'.setCpu { s'.cpu with
    pc := if s.cpu.haltBug then s.cpu.pc else s.cpu.pc + 1#16
    haltBug := false }

/-- HALT (R475): the CPU idles (`cpuAct`, `cpuTick`); with the master enable clear and an interrupt pending, the halt bug strikes. -/
def cpuHalt (s : State) : State :=
  s.setCpu { s.cpu with
    run := .halted
    haltBug := s.cpu.haltBug || (!s.cpu.ime && s.cpu.ifr &&& 0x1F#8 != 0#8) }

/-- STOP (R476): as HALT, and it arms the speed switch if one is requested. -/
def cpuStop (s : State) : State :=
  s.setCpu { s.cpu with
    run := .stopped
    switchArmed := s.cfg.hwMode == .cgb && Config.speedSwitchRequested s.cpu.speedToken }

/-- The CPU's instruction stream, outside the block, sets its registers and the master enable (R6, R73, R474); the low
nibble of the flags stays zero (R73), the flags being the low byte of AF (PRESUMED, log 29). -/
def cpuSet (af bc de hl : BitVec 16) (sp pc : Addr) (ime : Bool) (s : State) : State :=
  s.setCpu { s.cpu with af := af &&& 0xFFF0#16, bc := bc, de := de, hl := hl, sp := sp, pc := pc, ime := ime }

/-- The CPU idles: it is halted or stopped (R470, R475, R476). -/
def Cpu.idles (c : Cpu) : Bool :=
  match c.run with
  | .halted | .stopped => true
  | .running | .servicingInterrupt => false

/-- The CPU services an interrupt at its next `Tick()` (R471): an enabled one is pending under the master enable. -/
def Cpu.services (c : Cpu) : Bool := c.pendingEnabled != 0#8 && c.ime

/-- A part of an instruction, done by a CPU that runs. -/
def performAct (act : CpuAct) (s : State) : State :=
  match act with
  | .fetch => cpuFetch s
  | .read a => issueRead a true s
  | .write a v => busWrite a v true s
  | .set af bc de hl sp pc ime => cpuSet af bc de hl sp pc ime s
  | .halt => cpuHalt s
  | .stop => cpuStop s

/-- A part of an instruction: a halted or stopped CPU does nothing (R470, R475, R476). -/
def cpuAct (act : CpuAct) (s : State) : State := if s.cpu.idles then s else performAct act s

/-- The CPU executes one instruction and feeds its cycles on, in the current speed mode (R440, R470, R476). -/
def executeInstruction (acts : List CpuAct) (cycles : Nat) (s : State) : State :=
  let s' := acts.foldl (fun s act => cpuAct act s) s
  ioTick cycles s'.cpu.doubleSpeed s'

/-- One call of the CPU's `Tick()` (R470): it services an interrupt, or, woken where one is pending and enabled (R471), it
executes one instruction, or it idles; each feeds its cycles to `IOTICK`. How many an idle step feeds is not said (R446), so
it is given (log 28). -/
def cpuTick (acts : List CpuAct) (cycles idle : Nat) (s : State) : State :=
  let s' := cpuService s
  if s.cpu.services then s'
  else if s'.cpu.idles then ioTick idle s'.cpu.doubleSpeed s'
  else executeInstruction acts cycles s'

/-- A CPU step and the orchestrator around it (R102, R308, R445): a stall that is owed is run off before the CPU does anything,
and one that the step has caused is run off after it, in the same call. -/
def cpuStep (f : State → State) (s : State) : State := takeStall (f (takeStall s))

end Sys2Proof.Machine
end

