-- ==== Sys2Proof/Machine/ApuOps.lean ====
section
/-! DEFINITION. The meanings of the reads and writes of the APU's registers and wave table. -/

namespace Sys2Proof.Machine

/-- `RD_WAVE` (R424), through the dispatcher (R163). -/
def execRdWave (hb : Bool) (i : BitVec 4) (s : State) : Host.Outcome State Fault Refusal :=
  .next (issueRead (placeAddr .wave i.toNat) hb s)

/-- `WR_WAVE` (R424), through the dispatcher (R164). -/
def execWrWave (hb : Bool) (i : BitVec 4) (v : Byte) (s : State) : Host.Outcome State Fault Refusal :=
  .next (busWrite (placeAddr .wave i.toNat) v hb s)

/-- `RD_NR10` (R420), through the dispatcher (R163). -/
def execRdNr10 (hb : Bool) (s : State) : Host.Outcome State Fault Refusal :=
  .next (issueRead (placeAddr .nr10 0) hb s)

/-- `WR_NR10` (R383), through the dispatcher (R164). -/
def execWrNr10 (hb : Bool) (v : Byte) (s : State) : Host.Outcome State Fault Refusal :=
  .next (busWrite (placeAddr .nr10 0) v hb s)

/-- `RD_NR11` (R420), through the dispatcher (R163). -/
def execRdNr11 (hb : Bool) (s : State) : Host.Outcome State Fault Refusal :=
  .next (issueRead (placeAddr .nr11 0) hb s)

/-- `WR_NR11` (R366), through the dispatcher (R164). -/
def execWrNr11 (hb : Bool) (v : Byte) (s : State) : Host.Outcome State Fault Refusal :=
  .next (busWrite (placeAddr .nr11 0) v hb s)

/-- `RD_NR12` (R420), through the dispatcher (R163). -/
def execRdNr12 (hb : Bool) (s : State) : Host.Outcome State Fault Refusal :=
  .next (issueRead (placeAddr .nr12 0) hb s)

/-- `WR_NR12` (R368), through the dispatcher (R164). -/
def execWrNr12 (hb : Bool) (v : Byte) (s : State) : Host.Outcome State Fault Refusal :=
  .next (busWrite (placeAddr .nr12 0) v hb s)

/-- `RD_NR13` (R420), through the dispatcher (R163). -/
def execRdNr13 (hb : Bool) (s : State) : Host.Outcome State Fault Refusal :=
  .next (issueRead (placeAddr .nr13 0) hb s)

/-- `WR_NR13` (R369), through the dispatcher (R164). -/
def execWrNr13 (hb : Bool) (v : Byte) (s : State) : Host.Outcome State Fault Refusal :=
  .next (busWrite (placeAddr .nr13 0) v hb s)

/-- `RD_NR14` (R420), through the dispatcher (R163). -/
def execRdNr14 (hb : Bool) (s : State) : Host.Outcome State Fault Refusal :=
  .next (issueRead (placeAddr .nr14 0) hb s)

/-- `WR_NR14` (R370), through the dispatcher (R164). -/
def execWrNr14 (hb : Bool) (v : Byte) (s : State) : Host.Outcome State Fault Refusal :=
  .next (busWrite (placeAddr .nr14 0) v hb s)

/-- `RD_NR21` (R420), through the dispatcher (R163). -/
def execRdNr21 (hb : Bool) (s : State) : Host.Outcome State Fault Refusal :=
  .next (issueRead (placeAddr .nr21 0) hb s)

/-- `WR_NR21` (R366), through the dispatcher (R164). -/
def execWrNr21 (hb : Bool) (v : Byte) (s : State) : Host.Outcome State Fault Refusal :=
  .next (busWrite (placeAddr .nr21 0) v hb s)

/-- `RD_NR22` (R420), through the dispatcher (R163). -/
def execRdNr22 (hb : Bool) (s : State) : Host.Outcome State Fault Refusal :=
  .next (issueRead (placeAddr .nr22 0) hb s)

/-- `WR_NR22` (R368), through the dispatcher (R164). -/
def execWrNr22 (hb : Bool) (v : Byte) (s : State) : Host.Outcome State Fault Refusal :=
  .next (busWrite (placeAddr .nr22 0) v hb s)

/-- `RD_NR23` (R420), through the dispatcher (R163). -/
def execRdNr23 (hb : Bool) (s : State) : Host.Outcome State Fault Refusal :=
  .next (issueRead (placeAddr .nr23 0) hb s)

/-- `WR_NR23` (R369), through the dispatcher (R164). -/
def execWrNr23 (hb : Bool) (v : Byte) (s : State) : Host.Outcome State Fault Refusal :=
  .next (busWrite (placeAddr .nr23 0) v hb s)

/-- `RD_NR24` (R420), through the dispatcher (R163). -/
def execRdNr24 (hb : Bool) (s : State) : Host.Outcome State Fault Refusal :=
  .next (issueRead (placeAddr .nr24 0) hb s)

/-- `WR_NR24` (R370), through the dispatcher (R164). -/
def execWrNr24 (hb : Bool) (v : Byte) (s : State) : Host.Outcome State Fault Refusal :=
  .next (busWrite (placeAddr .nr24 0) v hb s)

/-- `RD_NR30` (R420), through the dispatcher (R163). -/
def execRdNr30 (hb : Bool) (s : State) : Host.Outcome State Fault Refusal :=
  .next (issueRead (placeAddr .nr30 0) hb s)

/-- `WR_NR30` (R368), through the dispatcher (R164). -/
def execWrNr30 (hb : Bool) (v : Byte) (s : State) : Host.Outcome State Fault Refusal :=
  .next (busWrite (placeAddr .nr30 0) v hb s)

/-- `RD_NR31` (R420), through the dispatcher (R163). -/
def execRdNr31 (hb : Bool) (s : State) : Host.Outcome State Fault Refusal :=
  .next (issueRead (placeAddr .nr31 0) hb s)

/-- `WR_NR31` (R366), through the dispatcher (R164). -/
def execWrNr31 (hb : Bool) (v : Byte) (s : State) : Host.Outcome State Fault Refusal :=
  .next (busWrite (placeAddr .nr31 0) v hb s)

/-- `RD_NR32` (R420), through the dispatcher (R163). -/
def execRdNr32 (hb : Bool) (s : State) : Host.Outcome State Fault Refusal :=
  .next (issueRead (placeAddr .nr32 0) hb s)

/-- `WR_NR32` (R369), through the dispatcher (R164). -/
def execWrNr32 (hb : Bool) (v : Byte) (s : State) : Host.Outcome State Fault Refusal :=
  .next (busWrite (placeAddr .nr32 0) v hb s)

/-- `RD_NR33` (R420), through the dispatcher (R163). -/
def execRdNr33 (hb : Bool) (s : State) : Host.Outcome State Fault Refusal :=
  .next (issueRead (placeAddr .nr33 0) hb s)

/-- `WR_NR33` (R369), through the dispatcher (R164). -/
def execWrNr33 (hb : Bool) (v : Byte) (s : State) : Host.Outcome State Fault Refusal :=
  .next (busWrite (placeAddr .nr33 0) v hb s)

/-- `RD_NR34` (R420), through the dispatcher (R163). -/
def execRdNr34 (hb : Bool) (s : State) : Host.Outcome State Fault Refusal :=
  .next (issueRead (placeAddr .nr34 0) hb s)

/-- `WR_NR34` (R370), through the dispatcher (R164). -/
def execWrNr34 (hb : Bool) (v : Byte) (s : State) : Host.Outcome State Fault Refusal :=
  .next (busWrite (placeAddr .nr34 0) v hb s)

/-- `RD_NR41` (R420), through the dispatcher (R163). -/
def execRdNr41 (hb : Bool) (s : State) : Host.Outcome State Fault Refusal :=
  .next (issueRead (placeAddr .nr41 0) hb s)

/-- `WR_NR41` (R366), through the dispatcher (R164). -/
def execWrNr41 (hb : Bool) (v : Byte) (s : State) : Host.Outcome State Fault Refusal :=
  .next (busWrite (placeAddr .nr41 0) v hb s)

/-- `RD_NR42` (R420), through the dispatcher (R163). -/
def execRdNr42 (hb : Bool) (s : State) : Host.Outcome State Fault Refusal :=
  .next (issueRead (placeAddr .nr42 0) hb s)

/-- `WR_NR42` (R368), through the dispatcher (R164). -/
def execWrNr42 (hb : Bool) (v : Byte) (s : State) : Host.Outcome State Fault Refusal :=
  .next (busWrite (placeAddr .nr42 0) v hb s)

/-- `RD_NR43` (R420), through the dispatcher (R163). -/
def execRdNr43 (hb : Bool) (s : State) : Host.Outcome State Fault Refusal :=
  .next (issueRead (placeAddr .nr43 0) hb s)

/-- `WR_NR43` (R369), through the dispatcher (R164). -/
def execWrNr43 (hb : Bool) (v : Byte) (s : State) : Host.Outcome State Fault Refusal :=
  .next (busWrite (placeAddr .nr43 0) v hb s)

/-- `RD_NR44` (R420), through the dispatcher (R163). -/
def execRdNr44 (hb : Bool) (s : State) : Host.Outcome State Fault Refusal :=
  .next (issueRead (placeAddr .nr44 0) hb s)

/-- `WR_NR44` (R370), through the dispatcher (R164). -/
def execWrNr44 (hb : Bool) (v : Byte) (s : State) : Host.Outcome State Fault Refusal :=
  .next (busWrite (placeAddr .nr44 0) v hb s)

/-- `RD_NR50` (R420), through the dispatcher (R163). -/
def execRdNr50 (hb : Bool) (s : State) : Host.Outcome State Fault Refusal :=
  .next (issueRead (placeAddr .nr50 0) hb s)

/-- `WR_NR50` (R421), through the dispatcher (R164). -/
def execWrNr50 (hb : Bool) (v : Byte) (s : State) : Host.Outcome State Fault Refusal :=
  .next (busWrite (placeAddr .nr50 0) v hb s)

/-- `RD_NR51` (R420), through the dispatcher (R163). -/
def execRdNr51 (hb : Bool) (s : State) : Host.Outcome State Fault Refusal :=
  .next (issueRead (placeAddr .nr51 0) hb s)

/-- `WR_NR51` (R421), through the dispatcher (R164). -/
def execWrNr51 (hb : Bool) (v : Byte) (s : State) : Host.Outcome State Fault Refusal :=
  .next (busWrite (placeAddr .nr51 0) v hb s)

/-- `RD_NR52` (R422), through the dispatcher (R163). -/
def execRdNr52 (hb : Bool) (s : State) : Host.Outcome State Fault Refusal :=
  .next (issueRead (placeAddr .nr52 0) hb s)

/-- `WR_NR52` (R423), through the dispatcher (R164). -/
def execWrNr52 (hb : Bool) (v : Byte) (s : State) : Host.Outcome State Fault Refusal :=
  .next (busWrite (placeAddr .nr52 0) v hb s)

end Sys2Proof.Machine
end

