-- ==== Sys2Proof/Machine/BusOps.lean ====
section
/-! DEFINITION. The meanings of the bus operations that stand for no one register: `RD`, `WR`, `BLOCK`, `REGISTER`, `UNREGISTER`, `RESET`. -/

namespace Sys2Proof.Machine

/-- `RD` (R163). -/
def execRd (hb : Bool) (addr : Addr) (s : State) : Host.Outcome State Fault Refusal :=
  .next (issueRead addr hb s)

/-- `WR` (R164). -/
def execWr (hb : Bool) (addr : Addr) (v : Byte) (s : State) : Host.Outcome State Fault Refusal :=
  .next (busWrite addr v hb s)

/-- `BLOCK` (R165). -/
def execBlock (seg : Segment) (val : Bool) (s : State) : Host.Outcome State Fault Refusal :=
  .next (s.setBlocked seg val)

/-- `REGISTER` (R161). -/
def execRegister (hid : HandlerId) (s : State) : Host.Outcome State Fault Refusal :=
  .next (registerHandler hid s)

/-- `UNREGISTER` (R162). -/
def execUnregister (hid : HandlerId) (s : State) : Host.Outcome State Fault Refusal :=
  .next (unregisterHandler hid s)

/-- `RESET` (R500). -/
def execReset (s : State) : Host.Outcome State Fault Refusal :=
  .next (resetBlock s)

end Sys2Proof.Machine
end

