-- ==== Sys2Proof/Machine/DmaOps.lean ====
section
/-! DEFINITION. The meanings of the reads and writes of the OAM DMA and HDMA registers. -/

namespace Sys2Proof.Machine

/-- `RD_DMA` (R283), through the dispatcher (R163). -/
def execRdDma (hb : Bool) (s : State) : Host.Outcome State Fault Refusal :=
  .next (issueRead (placeAddr .dma 0) hb s)

/-- `WR_DMA` (R282), through the dispatcher (R164). -/
def execWrDma (hb : Bool) (v : Byte) (s : State) : Host.Outcome State Fault Refusal :=
  .next (busWrite (placeAddr .dma 0) v hb s)

/-- `RD_HDMA1` (R303), through the dispatcher (R163). -/
def execRdHdma1 (hb : Bool) (s : State) : Host.Outcome State Fault Refusal :=
  .next (issueRead (placeAddr .hdma1 0) hb s)

/-- `WR_HDMA1` (R303), through the dispatcher (R164). -/
def execWrHdma1 (hb : Bool) (v : Byte) (s : State) : Host.Outcome State Fault Refusal :=
  .next (busWrite (placeAddr .hdma1 0) v hb s)

/-- `RD_HDMA2` (R303), through the dispatcher (R163). -/
def execRdHdma2 (hb : Bool) (s : State) : Host.Outcome State Fault Refusal :=
  .next (issueRead (placeAddr .hdma2 0) hb s)

/-- `WR_HDMA2` (R303), through the dispatcher (R164). -/
def execWrHdma2 (hb : Bool) (v : Byte) (s : State) : Host.Outcome State Fault Refusal :=
  .next (busWrite (placeAddr .hdma2 0) v hb s)

/-- `RD_HDMA3` (R303), through the dispatcher (R163). -/
def execRdHdma3 (hb : Bool) (s : State) : Host.Outcome State Fault Refusal :=
  .next (issueRead (placeAddr .hdma3 0) hb s)

/-- `WR_HDMA3` (R303), through the dispatcher (R164). -/
def execWrHdma3 (hb : Bool) (v : Byte) (s : State) : Host.Outcome State Fault Refusal :=
  .next (busWrite (placeAddr .hdma3 0) v hb s)

/-- `RD_HDMA4` (R303), through the dispatcher (R163). -/
def execRdHdma4 (hb : Bool) (s : State) : Host.Outcome State Fault Refusal :=
  .next (issueRead (placeAddr .hdma4 0) hb s)

/-- `WR_HDMA4` (R303), through the dispatcher (R164). -/
def execWrHdma4 (hb : Bool) (v : Byte) (s : State) : Host.Outcome State Fault Refusal :=
  .next (busWrite (placeAddr .hdma4 0) v hb s)

/-- `RD_HDMA5` (R311), through the dispatcher (R163). -/
def execRdHdma5 (hb : Bool) (s : State) : Host.Outcome State Fault Refusal :=
  .next (issueRead (placeAddr .hdma5 0) hb s)

/-- `WR_HDMA5` (R305), through the dispatcher (R164). -/
def execWrHdma5 (hb : Bool) (v : Byte) (s : State) : Host.Outcome State Fault Refusal :=
  .next (busWrite (placeAddr .hdma5 0) v hb s)

end Sys2Proof.Machine
end

