-- ==== Sys2Proof/Machine/PpuOps.lean ====
section
/-! DEFINITION. The meanings of the reads and writes of the PPU's registers, VRAM and OAM. -/

namespace Sys2Proof.Machine

/-- `RD_VRAM` (R203), through the dispatcher (R163). -/
def execRdVram (hb : Bool) (off : BitVec 13) (s : State) : Host.Outcome State Fault Refusal :=
  .next (issueRead (placeAddr .vram off.toNat) hb s)

/-- `WR_VRAM` (R203), through the dispatcher (R164). -/
def execWrVram (hb : Bool) (off : BitVec 13) (v : Byte) (s : State) : Host.Outcome State Fault Refusal :=
  .next (busWrite (placeAddr .vram off.toNat) v hb s)

/-- `RD_OAM` (R205), through the dispatcher (R163). -/
def execRdOam (hb : Bool) (i : Byte) (s : State) : Host.Outcome State Fault Refusal :=
  .next (issueRead (placeAddr .oam i.toNat) hb s)

/-- `WR_OAM` (R205), through the dispatcher (R164). -/
def execWrOam (hb : Bool) (i : Byte) (v : Byte) (s : State) : Host.Outcome State Fault Refusal :=
  .next (busWrite (placeAddr .oam i.toNat) v hb s)

/-- `RD_LCDC` (R195), through the dispatcher (R163). -/
def execRdLcdc (hb : Bool) (s : State) : Host.Outcome State Fault Refusal :=
  .next (issueRead (placeAddr .lcdc 0) hb s)

/-- `WR_LCDC` (R195), through the dispatcher (R164). -/
def execWrLcdc (hb : Bool) (v : Byte) (s : State) : Host.Outcome State Fault Refusal :=
  .next (busWrite (placeAddr .lcdc 0) v hb s)

/-- `RD_STAT` (R198), through the dispatcher (R163). -/
def execRdStat (hb : Bool) (s : State) : Host.Outcome State Fault Refusal :=
  .next (issueRead (placeAddr .stat 0) hb s)

/-- `WR_STAT` (R199), through the dispatcher (R164). -/
def execWrStat (hb : Bool) (v : Byte) (s : State) : Host.Outcome State Fault Refusal :=
  .next (busWrite (placeAddr .stat 0) v hb s)

/-- `RD_SCY` (R202), through the dispatcher (R163). -/
def execRdScy (hb : Bool) (s : State) : Host.Outcome State Fault Refusal :=
  .next (issueRead (placeAddr .scy 0) hb s)

/-- `WR_SCY` (R202), through the dispatcher (R164). -/
def execWrScy (hb : Bool) (v : Byte) (s : State) : Host.Outcome State Fault Refusal :=
  .next (busWrite (placeAddr .scy 0) v hb s)

/-- `RD_SCX` (R202), through the dispatcher (R163). -/
def execRdScx (hb : Bool) (s : State) : Host.Outcome State Fault Refusal :=
  .next (issueRead (placeAddr .scx 0) hb s)

/-- `WR_SCX` (R202), through the dispatcher (R164). -/
def execWrScx (hb : Bool) (v : Byte) (s : State) : Host.Outcome State Fault Refusal :=
  .next (busWrite (placeAddr .scx 0) v hb s)

/-- `RD_LY` (R200), through the dispatcher (R163). -/
def execRdLy (hb : Bool) (s : State) : Host.Outcome State Fault Refusal :=
  .next (issueRead (placeAddr .ly 0) hb s)

/-- `WR_LY` (R200), through the dispatcher (R164). -/
def execWrLy (hb : Bool) (v : Byte) (s : State) : Host.Outcome State Fault Refusal :=
  .next (busWrite (placeAddr .ly 0) v hb s)

/-- `RD_LYC` (R201), through the dispatcher (R163). -/
def execRdLyc (hb : Bool) (s : State) : Host.Outcome State Fault Refusal :=
  .next (issueRead (placeAddr .lyc 0) hb s)

/-- `WR_LYC` (R201), through the dispatcher (R164). -/
def execWrLyc (hb : Bool) (v : Byte) (s : State) : Host.Outcome State Fault Refusal :=
  .next (busWrite (placeAddr .lyc 0) v hb s)

/-- `RD_BGP` (R202), through the dispatcher (R163). -/
def execRdBgp (hb : Bool) (s : State) : Host.Outcome State Fault Refusal :=
  .next (issueRead (placeAddr .bgp 0) hb s)

/-- `WR_BGP` (R202), through the dispatcher (R164). -/
def execWrBgp (hb : Bool) (v : Byte) (s : State) : Host.Outcome State Fault Refusal :=
  .next (busWrite (placeAddr .bgp 0) v hb s)

/-- `RD_OBP0` (R202), through the dispatcher (R163). -/
def execRdObp0 (hb : Bool) (s : State) : Host.Outcome State Fault Refusal :=
  .next (issueRead (placeAddr .obp0 0) hb s)

/-- `WR_OBP0` (R202), through the dispatcher (R164). -/
def execWrObp0 (hb : Bool) (v : Byte) (s : State) : Host.Outcome State Fault Refusal :=
  .next (busWrite (placeAddr .obp0 0) v hb s)

/-- `RD_OBP1` (R202), through the dispatcher (R163). -/
def execRdObp1 (hb : Bool) (s : State) : Host.Outcome State Fault Refusal :=
  .next (issueRead (placeAddr .obp1 0) hb s)

/-- `WR_OBP1` (R202), through the dispatcher (R164). -/
def execWrObp1 (hb : Bool) (v : Byte) (s : State) : Host.Outcome State Fault Refusal :=
  .next (busWrite (placeAddr .obp1 0) v hb s)

/-- `RD_WY` (R202), through the dispatcher (R163). -/
def execRdWy (hb : Bool) (s : State) : Host.Outcome State Fault Refusal :=
  .next (issueRead (placeAddr .wy 0) hb s)

/-- `WR_WY` (R202), through the dispatcher (R164). -/
def execWrWy (hb : Bool) (v : Byte) (s : State) : Host.Outcome State Fault Refusal :=
  .next (busWrite (placeAddr .wy 0) v hb s)

/-- `RD_WX` (R202), through the dispatcher (R163). -/
def execRdWx (hb : Bool) (s : State) : Host.Outcome State Fault Refusal :=
  .next (issueRead (placeAddr .wx 0) hb s)

/-- `WR_WX` (R202), through the dispatcher (R164). -/
def execWrWx (hb : Bool) (v : Byte) (s : State) : Host.Outcome State Fault Refusal :=
  .next (busWrite (placeAddr .wx 0) v hb s)

/-- `RD_VBK` (R203), through the dispatcher (R163). -/
def execRdVbk (hb : Bool) (s : State) : Host.Outcome State Fault Refusal :=
  .next (issueRead (placeAddr .vbk 0) hb s)

/-- `WR_VBK` (R203), through the dispatcher (R164). -/
def execWrVbk (hb : Bool) (v : Byte) (s : State) : Host.Outcome State Fault Refusal :=
  .next (busWrite (placeAddr .vbk 0) v hb s)

/-- `RD_BCPS` (R206), through the dispatcher (R163). -/
def execRdBcps (hb : Bool) (s : State) : Host.Outcome State Fault Refusal :=
  .next (issueRead (placeAddr .bcps 0) hb s)

/-- `WR_BCPS` (R206), through the dispatcher (R164). -/
def execWrBcps (hb : Bool) (v : Byte) (s : State) : Host.Outcome State Fault Refusal :=
  .next (busWrite (placeAddr .bcps 0) v hb s)

/-- `RD_BCPD` (R207), through the dispatcher (R163). -/
def execRdBcpd (hb : Bool) (s : State) : Host.Outcome State Fault Refusal :=
  .next (issueRead (placeAddr .bcpd 0) hb s)

/-- `WR_BCPD` (R207), through the dispatcher (R164). -/
def execWrBcpd (hb : Bool) (v : Byte) (s : State) : Host.Outcome State Fault Refusal :=
  .next (busWrite (placeAddr .bcpd 0) v hb s)

/-- `RD_OCPS` (R206), through the dispatcher (R163). -/
def execRdOcps (hb : Bool) (s : State) : Host.Outcome State Fault Refusal :=
  .next (issueRead (placeAddr .ocps 0) hb s)

/-- `WR_OCPS` (R206), through the dispatcher (R164). -/
def execWrOcps (hb : Bool) (v : Byte) (s : State) : Host.Outcome State Fault Refusal :=
  .next (busWrite (placeAddr .ocps 0) v hb s)

/-- `RD_OCPD` (R207), through the dispatcher (R163). -/
def execRdOcpd (hb : Bool) (s : State) : Host.Outcome State Fault Refusal :=
  .next (issueRead (placeAddr .ocpd 0) hb s)

/-- `WR_OCPD` (R207), through the dispatcher (R164). -/
def execWrOcpd (hb : Bool) (v : Byte) (s : State) : Host.Outcome State Fault Refusal :=
  .next (busWrite (placeAddr .ocpd 0) v hb s)

/-- `RD_OPRI` (R209), through the dispatcher (R163). -/
def execRdOpri (hb : Bool) (s : State) : Host.Outcome State Fault Refusal :=
  .next (issueRead (placeAddr .opri 0) hb s)

/-- `WR_OPRI` (R209), through the dispatcher (R164). -/
def execWrOpri (hb : Bool) (v : Byte) (s : State) : Host.Outcome State Fault Refusal :=
  .next (busWrite (placeAddr .opri 0) v hb s)

end Sys2Proof.Machine
end

