-- ==== Sys2Proof/Machine/TickOps.lean ====
section
/-! DEFINITION. The meanings of the ticks: `IO.Tick` in both speeds and one tick of each device. -/

namespace Sys2Proof.Machine

/-- `IOTICK` (R440). -/
def execIotick (cycles : BitVec 16) (s : State) : Host.Outcome State Fault Refusal :=
  .next (ioTick cycles.toNat false s)

/-- `IOTICK2` (R440). -/
def execIotick2 (cycles : BitVec 16) (s : State) : Host.Outcome State Fault Refusal :=
  .next (ioTick cycles.toNat true s)

/-- `TICK_TIMER` (R333). -/
def execTickTimer (s : State) : Host.Outcome State Fault Refusal :=
  .next (tickTimer s)

/-- `TICK_SERIAL` (R447). -/
def execTickSerial (s : State) : Host.Outcome State Fault Refusal :=
  .next (tickSerial s)

/-- `TICK_DMA` (R284). -/
def execTickDma (s : State) : Host.Outcome State Fault Refusal :=
  .next (tickDma s)

/-- `TICK_PPU` (R183). -/
def execTickPpu (s : State) : Host.Outcome State Fault Refusal :=
  .next (tickPpu s)

/-- `TICK_APU` (R361). -/
def execTickApu (s : State) : Host.Outcome State Fault Refusal :=
  .next (tickApu s)

/-- `TICK_HDMA` (R312). -/
def execTickHdma (s : State) : Host.Outcome State Fault Refusal :=
  .next (tickHdma s)

end Sys2Proof.Machine
end

