-- ==== Sys2Proof/Machine/TimerOps.lean ====
section
/-! DEFINITION. The meanings of the reads and writes of the Timer's registers. -/

namespace Sys2Proof.Machine

/-- `RD_DIV` (R334), through the dispatcher (R163). -/
def execRdDiv (hb : Bool) (s : State) : Host.Outcome State Fault Refusal :=
  .next (issueRead (placeAddr .div 0) hb s)

/-- `WR_DIV` (R335), through the dispatcher (R164). -/
def execWrDiv (hb : Bool) (v : Byte) (s : State) : Host.Outcome State Fault Refusal :=
  .next (busWrite (placeAddr .div 0) v hb s)

/-- `RD_TIMA` (R336), through the dispatcher (R163). -/
def execRdTima (hb : Bool) (s : State) : Host.Outcome State Fault Refusal :=
  .next (issueRead (placeAddr .tima 0) hb s)

/-- `WR_TIMA` (R337), through the dispatcher (R164). -/
def execWrTima (hb : Bool) (v : Byte) (s : State) : Host.Outcome State Fault Refusal :=
  .next (busWrite (placeAddr .tima 0) v hb s)

/-- `RD_TMA` (R340), through the dispatcher (R163). -/
def execRdTma (hb : Bool) (s : State) : Host.Outcome State Fault Refusal :=
  .next (issueRead (placeAddr .tma 0) hb s)

/-- `WR_TMA` (R340), through the dispatcher (R164). -/
def execWrTma (hb : Bool) (v : Byte) (s : State) : Host.Outcome State Fault Refusal :=
  .next (busWrite (placeAddr .tma 0) v hb s)

/-- `RD_TAC` (R342), through the dispatcher (R163). -/
def execRdTac (hb : Bool) (s : State) : Host.Outcome State Fault Refusal :=
  .next (issueRead (placeAddr .tac 0) hb s)

/-- `WR_TAC` (R341), through the dispatcher (R164). -/
def execWrTac (hb : Bool) (v : Byte) (s : State) : Host.Outcome State Fault Refusal :=
  .next (busWrite (placeAddr .tac 0) v hb s)

end Sys2Proof.Machine
end

