-- ==== Sys2Proof/Machine/Dispatch.lean ====
section
/-! DEFINITION. One arm for each operation of the block. -/

namespace Sys2Proof.Machine

def exec (i : Instr) (s : State) : Host.Outcome State Fault Refusal :=
  match i with
  | .rd hb addr => Sys2Proof.Machine.execRd hb addr s
  | .wr hb addr v => Sys2Proof.Machine.execWr hb addr v s
  | .rdVram hb off => Sys2Proof.Machine.execRdVram hb off s
  | .wrVram hb off v => Sys2Proof.Machine.execWrVram hb off v s
  | .rdOam hb idx => Sys2Proof.Machine.execRdOam hb idx s
  | .wrOam hb idx v => Sys2Proof.Machine.execWrOam hb idx v s
  | .rdWave hb idx => Sys2Proof.Machine.execRdWave hb idx s
  | .wrWave hb idx v => Sys2Proof.Machine.execWrWave hb idx v s
  | .rdDiv hb => Sys2Proof.Machine.execRdDiv hb s
  | .wrDiv hb v => Sys2Proof.Machine.execWrDiv hb v s
  | .rdTima hb => Sys2Proof.Machine.execRdTima hb s
  | .wrTima hb v => Sys2Proof.Machine.execWrTima hb v s
  | .rdTma hb => Sys2Proof.Machine.execRdTma hb s
  | .wrTma hb v => Sys2Proof.Machine.execWrTma hb v s
  | .rdTac hb => Sys2Proof.Machine.execRdTac hb s
  | .wrTac hb v => Sys2Proof.Machine.execWrTac hb v s
  | .rdNr10 hb => Sys2Proof.Machine.execRdNr10 hb s
  | .wrNr10 hb v => Sys2Proof.Machine.execWrNr10 hb v s
  | .rdNr11 hb => Sys2Proof.Machine.execRdNr11 hb s
  | .wrNr11 hb v => Sys2Proof.Machine.execWrNr11 hb v s
  | .rdNr12 hb => Sys2Proof.Machine.execRdNr12 hb s
  | .wrNr12 hb v => Sys2Proof.Machine.execWrNr12 hb v s
  | .rdNr13 hb => Sys2Proof.Machine.execRdNr13 hb s
  | .wrNr13 hb v => Sys2Proof.Machine.execWrNr13 hb v s
  | .rdNr14 hb => Sys2Proof.Machine.execRdNr14 hb s
  | .wrNr14 hb v => Sys2Proof.Machine.execWrNr14 hb v s
  | .rdNr21 hb => Sys2Proof.Machine.execRdNr21 hb s
  | .wrNr21 hb v => Sys2Proof.Machine.execWrNr21 hb v s
  | .rdNr22 hb => Sys2Proof.Machine.execRdNr22 hb s
  | .wrNr22 hb v => Sys2Proof.Machine.execWrNr22 hb v s
  | .rdNr23 hb => Sys2Proof.Machine.execRdNr23 hb s
  | .wrNr23 hb v => Sys2Proof.Machine.execWrNr23 hb v s
  | .rdNr24 hb => Sys2Proof.Machine.execRdNr24 hb s
  | .wrNr24 hb v => Sys2Proof.Machine.execWrNr24 hb v s
  | .rdNr30 hb => Sys2Proof.Machine.execRdNr30 hb s
  | .wrNr30 hb v => Sys2Proof.Machine.execWrNr30 hb v s
  | .rdNr31 hb => Sys2Proof.Machine.execRdNr31 hb s
  | .wrNr31 hb v => Sys2Proof.Machine.execWrNr31 hb v s
  | .rdNr32 hb => Sys2Proof.Machine.execRdNr32 hb s
  | .wrNr32 hb v => Sys2Proof.Machine.execWrNr32 hb v s
  | .rdNr33 hb => Sys2Proof.Machine.execRdNr33 hb s
  | .wrNr33 hb v => Sys2Proof.Machine.execWrNr33 hb v s
  | .rdNr34 hb => Sys2Proof.Machine.execRdNr34 hb s
  | .wrNr34 hb v => Sys2Proof.Machine.execWrNr34 hb v s
  | .rdNr41 hb => Sys2Proof.Machine.execRdNr41 hb s
  | .wrNr41 hb v => Sys2Proof.Machine.execWrNr41 hb v s
  | .rdNr42 hb => Sys2Proof.Machine.execRdNr42 hb s
  | .wrNr42 hb v => Sys2Proof.Machine.execWrNr42 hb v s
  | .rdNr43 hb => Sys2Proof.Machine.execRdNr43 hb s
  | .wrNr43 hb v => Sys2Proof.Machine.execWrNr43 hb v s
  | .rdNr44 hb => Sys2Proof.Machine.execRdNr44 hb s
  | .wrNr44 hb v => Sys2Proof.Machine.execWrNr44 hb v s
  | .rdNr50 hb => Sys2Proof.Machine.execRdNr50 hb s
  | .wrNr50 hb v => Sys2Proof.Machine.execWrNr50 hb v s
  | .rdNr51 hb => Sys2Proof.Machine.execRdNr51 hb s
  | .wrNr51 hb v => Sys2Proof.Machine.execWrNr51 hb v s
  | .rdNr52 hb => Sys2Proof.Machine.execRdNr52 hb s
  | .wrNr52 hb v => Sys2Proof.Machine.execWrNr52 hb v s
  | .rdLcdc hb => Sys2Proof.Machine.execRdLcdc hb s
  | .wrLcdc hb v => Sys2Proof.Machine.execWrLcdc hb v s
  | .rdStat hb => Sys2Proof.Machine.execRdStat hb s
  | .wrStat hb v => Sys2Proof.Machine.execWrStat hb v s
  | .rdScy hb => Sys2Proof.Machine.execRdScy hb s
  | .wrScy hb v => Sys2Proof.Machine.execWrScy hb v s
  | .rdScx hb => Sys2Proof.Machine.execRdScx hb s
  | .wrScx hb v => Sys2Proof.Machine.execWrScx hb v s
  | .rdLy hb => Sys2Proof.Machine.execRdLy hb s
  | .wrLy hb v => Sys2Proof.Machine.execWrLy hb v s
  | .rdLyc hb => Sys2Proof.Machine.execRdLyc hb s
  | .wrLyc hb v => Sys2Proof.Machine.execWrLyc hb v s
  | .rdDma hb => Sys2Proof.Machine.execRdDma hb s
  | .wrDma hb v => Sys2Proof.Machine.execWrDma hb v s
  | .rdBgp hb => Sys2Proof.Machine.execRdBgp hb s
  | .wrBgp hb v => Sys2Proof.Machine.execWrBgp hb v s
  | .rdObp0 hb => Sys2Proof.Machine.execRdObp0 hb s
  | .wrObp0 hb v => Sys2Proof.Machine.execWrObp0 hb v s
  | .rdObp1 hb => Sys2Proof.Machine.execRdObp1 hb s
  | .wrObp1 hb v => Sys2Proof.Machine.execWrObp1 hb v s
  | .rdWy hb => Sys2Proof.Machine.execRdWy hb s
  | .wrWy hb v => Sys2Proof.Machine.execWrWy hb v s
  | .rdWx hb => Sys2Proof.Machine.execRdWx hb s
  | .wrWx hb v => Sys2Proof.Machine.execWrWx hb v s
  | .rdVbk hb => Sys2Proof.Machine.execRdVbk hb s
  | .wrVbk hb v => Sys2Proof.Machine.execWrVbk hb v s
  | .rdHdma1 hb => Sys2Proof.Machine.execRdHdma1 hb s
  | .wrHdma1 hb v => Sys2Proof.Machine.execWrHdma1 hb v s
  | .rdHdma2 hb => Sys2Proof.Machine.execRdHdma2 hb s
  | .wrHdma2 hb v => Sys2Proof.Machine.execWrHdma2 hb v s
  | .rdHdma3 hb => Sys2Proof.Machine.execRdHdma3 hb s
  | .wrHdma3 hb v => Sys2Proof.Machine.execWrHdma3 hb v s
  | .rdHdma4 hb => Sys2Proof.Machine.execRdHdma4 hb s
  | .wrHdma4 hb v => Sys2Proof.Machine.execWrHdma4 hb v s
  | .rdHdma5 hb => Sys2Proof.Machine.execRdHdma5 hb s
  | .wrHdma5 hb v => Sys2Proof.Machine.execWrHdma5 hb v s
  | .rdBcps hb => Sys2Proof.Machine.execRdBcps hb s
  | .wrBcps hb v => Sys2Proof.Machine.execWrBcps hb v s
  | .rdBcpd hb => Sys2Proof.Machine.execRdBcpd hb s
  | .wrBcpd hb v => Sys2Proof.Machine.execWrBcpd hb v s
  | .rdOcps hb => Sys2Proof.Machine.execRdOcps hb s
  | .wrOcps hb v => Sys2Proof.Machine.execWrOcps hb v s
  | .rdOcpd hb => Sys2Proof.Machine.execRdOcpd hb s
  | .wrOcpd hb v => Sys2Proof.Machine.execWrOcpd hb v s
  | .rdOpri hb => Sys2Proof.Machine.execRdOpri hb s
  | .wrOpri hb v => Sys2Proof.Machine.execWrOpri hb v s
  | .iotick cycles => Sys2Proof.Machine.execIotick cycles s
  | .iotick2 cycles => Sys2Proof.Machine.execIotick2 cycles s
  | .block seg val => Sys2Proof.Machine.execBlock seg val s
  | .register hid => Sys2Proof.Machine.execRegister hid s
  | .unregister hid => Sys2Proof.Machine.execUnregister hid s
  | .reset => Sys2Proof.Machine.execReset s
  | .tickTimer => Sys2Proof.Machine.execTickTimer s
  | .tickSerial => Sys2Proof.Machine.execTickSerial s
  | .tickDma => Sys2Proof.Machine.execTickDma s
  | .tickPpu => Sys2Proof.Machine.execTickPpu s
  | .tickApu => Sys2Proof.Machine.execTickApu s
  | .tickHdma => Sys2Proof.Machine.execTickHdma s

end Sys2Proof.Machine
end

