-- ==== Sys2Proof/Machine/Inputs.lean ====
section
/-! DEFINITION. What one input does (R98): an operation word is decoded and executed; an act of an external agent has the
effect the spec describes. In the fault state nothing but `RESET` is accepted (R460). -/

namespace Sys2Proof.Machine

/-- The orchestrator issues `REGISTER` for every handler present (R168, R510), before whatever was to come: one operation
for each, which the next steps run. -/
def issueRegisters (s : State) : State :=
  s.setPending (s.cfg.presentHandlers.map (fun h => Input.word (encode (.register h))) ++ s.pending)

/-- The effect of an external agent's act; an operation word has none here. The CPU does nothing while a stall is owed
(R445): it is run off first, and after a whole step too; an act given alone feeds no cycles, so what it causes is run off
before the next (log 31). -/
def externalEffect (i : Input) (s : State) : State :=
  match i with
  | .word _ => s
  | .takeStall => takeStall s
  | .registerAll => issueRegisters s
  | .press k => pressButton k s
  | .release k => releaseButton k s
  | .cpuService => cpuStep cpuService s
  | .cpuAct act => cpuAct act (takeStall s)
  | .cpuTick acts cycles idle => cpuStep (cpuTick acts cycles.toNat idle.toNat) s

/-- An operation in a state: the fault state accepts `RESET` only (R460). -/
def acceptInstr (i : Instr) (s : State) : Host.Outcome State Fault Refusal :=
  match s.fault with
  | none => exec i s
  | some f => if i = .reset then exec i s else .fault f

/-- An operation word (R120): refused if it is reserved (R129). -/
def acceptWord (w : Word) (s : State) : Host.Outcome State Fault Refusal :=
  match decode w with
  | .error r => .refused (.reservedWord r)
  | .ok i => acceptInstr i s

/-- An input of the environment. -/
def acceptInput (i : Input) (s : State) : Host.Outcome State Fault Refusal :=
  match i with
  | .word w => acceptWord w s
  | .takeStall | .registerAll | .press _ | .release _ | .cpuService | .cpuAct _ | .cpuTick _ _ _ =>
    match s.fault with
    | none => .next (externalEffect i s)
    | some f => .fault f

end Sys2Proof.Machine
end

