-- ==== Sys2Proof/Machine/Step.lean ====
section
/-! DEFINITION. One step of the machine: it takes the next input. With none waiting it idles: the block's devices advance
exactly when an operation arrives (R446). -/

namespace Sys2Proof.Machine

/-- One step (R98). -/
def step (s : State) : Host.Outcome State Fault Refusal :=
  match s.pending with
  | [] => .next s
  | i :: rest => acceptInput i (s.setPending rest)

/-- The state with the operation word `w`, of `nbits` bits, as its next input. -/
def State.withFetchWord (s : State) (nbits w : Nat) : State :=
  s.setPending (.word (BitVec.ofNat 30 (w % 2 ^ nbits)) :: s.pending)

end Sys2Proof.Machine
end

