-- ==== Sys2Proof/Safety.lean ====
section
/-! DEFINITION. The terms claims use: a safe run, an access that arrives, the configurations with the default map, and the
invariants of R74 with the canonical forms of memory. -/

namespace Sys2Proof.Machine

/-- The machine has met no fault (R460). -/
def State.healthy (s : State) : Prop := s.fault = none

/-- A bus word for offset `off` of place `p` is delivered to that place (step 3 of R127). -/
def Reached (s : State) (p : Place) (off : Nat) (hb : Bool) : Prop := route s (placeAddr p off) hb = .deliver p off

/-- An access meets a blocked segment (step 1 of R127). -/
def AccessBlocked (s : State) (a : Addr) (hb : Bool) : Prop :=
  hb = true ∧ ∃ g, s.cfg.segmentOf a = some g ∧ s.bus.blocked g = true

/-- Operations one after another, as long as each answers a next state. -/
def execAll : List Instr → State → Host.Outcome State Fault Refusal
  | [], s => .next s
  | i :: is, s =>
    match exec i s with
    | .next t => execAll is t
    | .fault f => .fault f
    | .refused r => .refused r

/-- Steps one after another, as long as each answers a next state. -/
def stepAll : Nat → State → Host.Outcome State Fault Refusal
  | 0, s => .next s
  | n + 1, s =>
    match step s with
    | .next t => stepAll n t
    | .fault f => .fault f
    | .refused r => .refused r

/-- The state with `n` more ticks of stall owed (R308). -/
def State.owe (n : Nat) (s : State) : State := s.setHdma { s.hdma with stall := s.hdma.stall + n }

/-- `UpdateStatLine` (R190) takes `s` to `t`: the line is the OR of the enabled conditions, interrupt 1 is requested if it
rises, and nothing else changes. -/
structure StatLineUpdated (s t : State) : Prop where
  line : t.ppu.statLine = true ↔
    (s.ppu.statEn.getLsbD 0 = true ∧ s.ppu.mode = .hblank) ∨ (s.ppu.statEn.getLsbD 1 = true ∧ s.ppu.mode = .vblank) ∨
    (s.ppu.statEn.getLsbD 2 = true ∧ s.ppu.mode = .oamScan) ∨
    (s.ppu.statEn.getLsbD 3 = true ∧ s.ppu.ly = s.ppu.lyc.toNat)
  irq  : t.cpu = if t.ppu.statLine = true ∧ s.ppu.statLine = false then { s.cpu with ifr := s.cpu.ifr ||| 0x02#8 } else s.cpu
  rest : t = (s.setPpu { s.ppu with statLine := t.ppu.statLine }).setCpu t.cpu

/-- The handler of a place (R84, the handler column of R126). -/
def placeHandler : Place → HandlerId
  | .cartRom | .cartRam => .cartridge
  | .wramFixed | .wramBank | .wramEcho | .svbk => .workRam
  | .hram => .highRam
  | .joyp => .joypad
  | .serialRegs => .serial
  | .div | .tima | .tma | .tac => .timer
  | .ifReg | .speedSwitch | .ieReg => .cpuRegs
  | .wave | .nr10 | .nr11 | .nr12 | .nr13 | .nr14 | .nr21 | .nr22 | .nr23 | .nr24 | .nr30 | .nr31 | .nr32 | .nr33 | .nr34
  | .nr41 | .nr42 | .nr43 | .nr44 | .nr50 | .nr51 | .nr52 => .apu
  | .vram | .oam | .lcdc | .stat | .scy | .scx | .ly | .lyc | .bgp | .obp0 | .obp1 | .wy | .wx | .vbk | .bcps | .bcpd
  | .ocps | .ocpd | .opri => .ppu
  | .dma => .oamDma
  | .hdma1 | .hdma2 | .hdma3 | .hdma4 | .hdma5 => .hdma

/-- The address map and the segments are the defaults (R84, R88). -/
def State.defaultMap (s : State) : Prop := s.cfg.baseOverride = [] ∧ s.cfg.segments = Config.default.segments

/-- No two registered handlers claim one address (R22, R74 (a)). -/
def State.claimsDisjoint (s : State) : Prop :=
  ∀ h ∈ s.bus.registered, ∀ k ∈ s.bus.registered, ∀ a, s.cfg.claims h a = true → s.cfg.claims k a = true → h = k

/-- The registered handlers stand in id order, each once. -/
def Bus.canonical (b : Bus) : Prop := b.registered = HandlerId.all.filter fun h => b.registered.contains h

/-- The owner map (R22, R74 (a)). -/
structure BusInv (s : State) : Prop where
  canonical : s.bus.canonical
  disjoint  : s.claimsDisjoint

/-- How many lines of this frame the window can have been drawn on so far (R33, R183): 144 after the last (log 14). -/
def Ppu.windowLinesMax (p : Ppu) : Nat :=
  match p.mode with
  | .oamScan | .pixelTransfer => p.ly
  | .hblank => p.ly + 1
  | .vblank => 144

/-- The PPU (R27 to R41, R74 (b), (c), (d), (h), R182). -/
structure PpuInv (p : Ppu) : Prop where
  vram        : Memory.wf 0x4000 p.vram = true
  oam         : Memory.wf 160 p.oam = true
  bgPal       : Memory.wf 64 p.bgPal = true
  objPal      : Memory.wf 64 p.objPal = true
  fb          : PixelMap.wf p.fb = true
  spritesAt   : SpriteMap.wf p.spritesAt = true
  ly          : p.ly < 154
  lineTicks   : p.lineTicks < 456
  bgFifo      : p.bgFifo.length ≤ 16
  spFifo      : p.spFifo.length ≤ 8
  lineSprites : p.lineSprites ≤ 10
  bcps        : p.bcps.getLsbD 6 = false
  ocps        : p.ocps.getLsbD 6 = false
  vblank      : p.lcdEnabled = true → (p.mode = .vblank ↔ 144 ≤ p.ly)
  off         : p.lcdEnabled = false → p.mode = .hblank ∧ p.ly = 0 ∧ p.lineTicks = 0 ∧ p.winLy = 0
  transfer    : p.mode = .pixelTransfer → p.lx < 160
  winLy       : p.winLy ≤ p.windowLinesMax

/-- The Timer (R52, R53, R74 (e)). -/
structure TimerInv (hold : Nat) (t : Timer) : Prop where
  selBit    : t.selBit = muxOf (tacSelect t.tac)
  reloadCtr : t.reloadCtr ≤ timaReloadDelay + hold

/-- The OAM DMA engine (R42, R290). -/
structure DmaInv (d : Dma) : Prop where
  cycle    : d.cycle < 644
  readIdx  : d.readIdx ≤ 160
  writeIdx : d.writeIdx ≤ 160
  reads    : d.active = true → d.readIdx ≤ (d.cycle + 2) / 4
  writes   : d.active = true → d.writeIdx ≤ (d.cycle - 1) / 4
  srcSeg   : d.srcSeg ≠ some .oam

/-- The HDMA engine (R43, R74 (g), R304, R313); `vramBase` is `ADDR_VRAM`. -/
structure HdmaInv (vramBase : Addr) (h : Hdma) : Prop where
  dst       : h.busy = true → (h.dst - vramBase).toNat < 0x2000
  remaining : h.remaining ≤ 2048
  idle      : h.state = .idle ↔ h.remaining = 0

/-- The registers NR10 to NR51. -/
def Apu.registers (a : Apu) : List Byte :=
  [a.nr10, a.nr11, a.nr12, a.nr13, a.nr14, a.nr21, a.nr22, a.nr23, a.nr24, a.nr30, a.nr31, a.nr32, a.nr33, a.nr34,
   a.nr41, a.nr42, a.nr43, a.nr44, a.nr50, a.nr51]

/-- The APU (R60 to R68, R370, R383, R423). `ftimers` is one above the ranges of R67: R396, R397 and R399 reload 8192 and 4096 at
frequency 0 (DEDUCED, log 14). -/
structure ApuInv (period : PosNat) (a : Apu) : Prop where
  fsCounter : a.fsCounter < 8192
  fsStep    : a.fsStep < 8
  fsLast    : ∀ n, a.fsLast = some n → n < 8
  length1   : a.c1.length ≤ 64
  length2   : a.c2.length ≤ 64
  length3   : a.c3.length ≤ 256
  length4   : a.c4.length ≤ 64
  envelope1 : a.e1.timer ≤ 8
  envelope2 : a.e2.timer ≤ 8
  envelope4 : a.e4.timer ≤ 8
  sweep     : a.sweep.timer ≤ 8
  nr10      : a.nr10 &&& 0x80#8 = 0#8
  nr14      : a.nr14 &&& 0xB8#8 = 0#8
  nr24      : a.nr24 &&& 0xB8#8 = 0#8
  nr34      : a.nr34 &&& 0xB8#8 = 0#8
  nr44      : a.nr44 &&& 0xB8#8 = 0#8
  wave      : Memory.wf 16 a.wave = true
  off       : a.power = false → (∀ r ∈ a.registers, r = 0#8) ∧ a.c1.enabled = false ∧ a.c2.enabled = false ∧
    a.c3.enabled = false ∧ a.c4.enabled = false
  sampleCtr : 1 ≤ a.sampleCtr ∧ a.sampleCtr ≤ period.val
  ftimers   : a.g1.ftimer ≤ 8192 ∧ a.g2.ftimer ≤ 8192 ∧ a.g3.ftimer ≤ 4096

/-- The external handlers and the CPU (R73, R84, R86). -/
structure ExternalInv (s : State) : Prop where
  wram  : Memory.wf 0x8000 s.ext.wram = true
  hram  : Memory.wf 0x7F s.ext.hram = true
  flags : s.cpu.af &&& 0x000F#16 = 0#16

/-- What every operation keeps (R74, and the canonical forms). -/
structure Inv (s : State) : Prop where
  bus      : BusInv s
  ppu      : PpuInv s.ppu
  timer    : TimerInv s.cfg.timaReloadHold s.timer
  dma      : DmaInv s.dma
  hdma     : HdmaInv (s.cfg.base .vram) s.hdma
  apu      : ApuInv s.cfg.samplePeriod s.apu
  external : ExternalInv s

end Sys2Proof.Machine
end

