-- ==== Sys2Proof/Certificates/Slice0/Obligations.lean ====
section
/-! DEFINITION. The statements for the provers, each an `Obligations.<Name> : Prop`. A next state given as an equation of whole
states is also the operation's frame: whatever the equation does not name is unchanged. -/

open Sys2Proof Sys2Proof.Machine

/-! Encoding. -/

/-- R120 to R126: words written out from the formats, field by field, decode to the operations they stand for. (The spec
marks as its own decisions D30 in R120; as general knowledge in R126; followed as the spec says, log 23.) -/
def Obligations.DecodeSpecWords : Prop :=
  decode (0b0000#4 ++ 1#1 ++ 0#1 ++ 0xFF04#16 ++ 0x00#8 : BitVec 30) = .ok (.rdDiv true) ∧
  decode (0b0000#4 ++ 1#1 ++ 1#1 ++ 0xFF07#16 ++ 0x05#8 : BitVec 30) = .ok (.wrTac true 0x05#8) ∧
  decode (0b0000#4 ++ 0#1 ++ 1#1 ++ 0xFF46#16 ++ 0xC1#8 : BitVec 30) = .ok (.wrDma false 0xC1#8) ∧
  decode (0b0000#4 ++ 1#1 ++ 1#1 ++ 0xFF55#16 ++ 0x81#8 : BitVec 30) = .ok (.wrHdma5 true 0x81#8) ∧
  decode (0b0000#4 ++ 1#1 ++ 1#1 ++ 0xFF40#16 ++ 0x91#8 : BitVec 30) = .ok (.wrLcdc true 0x91#8) ∧
  decode (0b0000#4 ++ 1#1 ++ 0#1 ++ 0x9FFF#16 ++ 0x00#8 : BitVec 30) = .ok (.rdVram true 0x1FFF#13) ∧
  decode (0b0000#4 ++ 1#1 ++ 1#1 ++ 0xFE9F#16 ++ 0x7E#8 : BitVec 30) = .ok (.wrOam true 0x9F#8 0x7E#8) ∧
  decode (0b0000#4 ++ 1#1 ++ 0#1 ++ 0xFEA0#16 ++ 0x00#8 : BitVec 30) = .ok (.rd true 0xFEA0#16) ∧
  decode (0b0000#4 ++ 1#1 ++ 1#1 ++ 0xFF14#16 ++ 0x87#8 : BitVec 30) = .ok (.wrNr14 true 0x87#8) ∧
  decode (0b0000#4 ++ 1#1 ++ 0#1 ++ 0xFF3F#16 ++ 0x00#8 : BitVec 30) = .ok (.rdWave true 0xF#4) ∧
  decode (0b0001#4 ++ 0#9 ++ 0#1 ++ 4#16 : BitVec 30) = .ok (.iotick 4#16) ∧
  decode (0b0001#4 ++ 0#9 ++ 1#1 ++ 3#16 : BitVec 30) = .ok (.iotick2 3#16) ∧
  decode (0b0010#4 ++ 0#24 ++ 1#1 ++ 0#1 : BitVec 30) = .ok (.block .general false) ∧
  decode (0b0011#4 ++ 0#22 ++ 10#4 : BitVec 30) = .ok (.register .hdma) ∧
  decode (0b0100#4 ++ 0#22 ++ 0#4 : BitVec 30) = .ok (.unregister .cartridge) ∧
  decode (0b0101#4 ++ 0#26 : BitVec 30) = .ok .reset ∧
  decode (0b0111#4 ++ 0#23 ++ 3#3 : BitVec 30) = .ok .tickPpu

/-- R121 to R126: the word of a well-formed operation decodes to that operation, whatever its operands. (The spec marks as
general knowledge in R126; followed as the spec says, log 23.) -/
def Obligations.DecodeOfEncode : Prop :=
  ∀ i : Instr, i.wf = true → decode (encode i) = .ok i

/-- R121 to R126: a word that is an operation is that operation's word, but for the data field of a read, which R121 says is
0 in the canonical form and ignored. (The spec marks as general knowledge in R126; followed as the spec says, log 23.) -/
def Obligations.EncodeOfDecode : Prop :=
  ∀ (w : Word) (i : Instr), decode w = .ok i → (wordClass w = 0#4 → wordRw w = false → wordData w = 0#8) →
    encode i = w ∧ i.wf = true

/-- R129: the decoder refuses exactly the reserved words. (The spec marks as its own decisions D6 in R129, D30 in R129;
followed as the spec says, log 23.) -/
def Obligations.ReservedWordsExactly : Prop :=
  ∀ w : Word, (∃ r, decode w = .error r) ↔
    (wordClass w = 6#4 ∨ 8 ≤ (wordClass w).toNat) ∨
    (wordClass w = 1#4 ∧ w.extractLsb' 17 9 ≠ 0#9) ∨
    (wordClass w = 2#4 ∧ w.extractLsb' 2 24 ≠ 0#24) ∨
    ((wordClass w = 3#4 ∨ wordClass w = 4#4) ∧ (w.extractLsb' 4 22 ≠ 0#22 ∨ 10 < (w.extractLsb' 0 4).toNat)) ∨
    (wordClass w = 5#4 ∧ w.extractLsb' 0 26 ≠ 0#26) ∨
    (wordClass w = 7#4 ∧ (w.extractLsb' 3 23 ≠ 0#23 ∨ 6 ≤ (w.extractLsb' 0 3).toNat))

/-! The step. -/

/-- A step takes the next input: an operation word is decoded and executed, a reserved word refused (R129), and with no
input waiting nothing advances (R446). The queue of inputs is the model's own (log 5). (The spec marks as its own decisions
D6 in R129, D30 in R129; followed as the spec says, log 23.) -/
def Obligations.StepRunsDecodedOperation : Prop :=
  (∀ (s : State) (w : Word) (rest : List Input), s.pending = .word w :: rest →
    (∀ i, decode w = .ok i → s.fault = none → step s = exec i (s.setPending rest)) ∧
    (∀ r, decode w = .error r → step s = .refused (.reservedWord r))) ∧
  (∀ s : State, s.pending = [] → step s = .next s) ∧
  (∀ (s : State) (nbits w : Nat) (i : Instr), s.fault = none → decodeTableWord nbits w = some i →
    step (s.withFetchWord nbits w) = exec i s)

/-- R460: in the fault state `RESET` is executed, and no other operation is accepted; that no act of an external agent is
accepted either is the model's reading (log 13). (The spec marks as its own decisions D7 in R460; followed as the spec says,
log 23.) -/
def Obligations.FaultStateAcceptsResetOnly : Prop :=
  ∀ (s : State) (f : Fault) (x : Input) (rest : List Input), s.fault = some f → s.pending = x :: rest →
    (∀ w, x = .word w → decode w = .ok .reset → step s = exec .reset (s.setPending rest)) ∧
    (∀ w i, x = .word w → decode w = .ok i → i ≠ .reset → step s = .fault f) ∧
    ((∀ w, x ≠ .word w) → step s = .fault f)

/-! Reset. -/

/-- R501: `RESET` puts every element at its reset value, whatever the state was; an unspecified memory cell holds the free
value of the new draw (log 1). -/
def Obligations.ResetValues : Prop :=
  ∀ s : State, ∃ t, exec .reset s = .next t ∧
    (∀ a, ownerOf t a = none) ∧ t.bus.blockedOam = false ∧ t.bus.blockedGeneral = false ∧
    t.bus.lastDmaByte = s.cfg.blockedReadValue ∧
    t.ppu.lcdc = 0#8 ∧ t.ppu.statEn = 0#4 ∧ t.ppu.scy = 0#8 ∧ t.ppu.scx = 0#8 ∧ t.ppu.lyc = 0#8 ∧ t.ppu.bgp = 0#8 ∧
    t.ppu.obp0 = 0#8 ∧ t.ppu.obp1 = 0#8 ∧ t.ppu.wy = 0#8 ∧ t.ppu.wx = 0#8 ∧
    t.ppu.vbk = 0#1 ∧ t.ppu.bcps = 0#8 ∧ t.ppu.ocps = 0#8 ∧ t.ppu.opri = 0#1 ∧
    (∀ b i, t.ppuEnv.vram t.ppu b i = Config.freeByte .vram t.draws (0x2000 * b + i)) ∧
    (∀ i, t.ppuEnv.oam t.ppu i = Config.freeByte .oam t.draws i) ∧
    (∀ i, t.ppuEnv.bgPal t.ppu i = Config.freeByte .bgPal t.draws i) ∧
    (∀ i, t.ppuEnv.objPal t.ppu i = Config.freeByte .objPal t.draws i) ∧
    (∀ i, t.apu.readWave t.draws i = Config.freeByte .wave t.draws i) ∧
    (∀ i, readPixel t.draws t.ppu.fb i = Config.freePixel t.draws i) ∧
    t.ppu.ly = 0 ∧ t.ppu.lineTicks = 0 ∧ t.ppu.mode = .hblank ∧
    t.ppu.statLine = false ∧ t.ppu.windowDrawn = false ∧ t.ppu.inWindow = false ∧
    t.ppu.winLy = 0 ∧ t.ppu.lx = 0 ∧ t.ppu.discard = 0 ∧ t.ppu.fetchX = 0 ∧ t.ppu.fTile = 0#8 ∧ t.ppu.fAttr = 0#8 ∧
    t.ppu.fLow = 0#8 ∧ t.ppu.fHigh = 0#8 ∧ t.ppu.fAddr = 0 ∧
    t.ppu.bgFifo = [] ∧ t.ppu.spFifo = [] ∧ (∀ k, queueAt t.ppu.spritesAt k = []) ∧ t.ppu.lineSprites = 0 ∧
    t.ppu.fetchState = .fetchTileSleep ∧ t.ppu.spriteState = .idle ∧
    t.ppu.curSprite = ⟨0, 0#8, 0#8⟩ ∧ t.ppu.sTile = 0#8 ∧ t.ppu.sAttr = 0#8 ∧ t.ppu.sLow = 0#8 ∧ t.ppu.sHigh = 0#8 ∧
    t.ppu.sAddr = 0 ∧
    t.dma = ⟨0#8, false, 0, 0#16, 0, 0, 0#8, none⟩ ∧
    t.hdma = ⟨0#8, 0#8, 0#8, 0#8, .idle, .gp, 0#16, 0#16, 0, 0#8, 0⟩ ∧
    t.timer = ⟨0#16, 0#8, 0#8, 0#3, .bit9, 0⟩ ∧
    t.apu.fsCounter = 0 ∧ t.apu.fsStep = 0 ∧ t.apu.fsLast = none ∧ t.apu.power = false ∧
    (∀ r ∈ t.apu.registers, r = 0#8) ∧ (∀ c, t.apu.chan c = ⟨false, 0, false⟩) ∧
    t.apu.e1 = ⟨0#4, 0⟩ ∧ t.apu.e2 = ⟨0#4, 0⟩ ∧ t.apu.e4 = ⟨0#4, 0⟩ ∧ t.apu.sweep = ⟨0#11, 0, false⟩ ∧
    t.apu.g1 = ⟨0, 0#3⟩ ∧ t.apu.g2 = ⟨0, 0#3⟩ ∧ t.apu.g3 = ⟨0, 0#5, 0#4⟩ ∧ t.apu.g4 = ⟨0, 0x7FFF#15⟩ ∧
    t.apu.sampleCtr = s.cfg.samplePeriod.val ∧ t.halfPhase = false

/-- R500, R503, R510: `RESET` leaves the fault state, draws the unspecified memories anew and touches no state outside the
block; the machine of the model starts as `RESET` leaves it (what else `RESET` leaves alone is the model's choice, log 17).
The orchestrator's registration issues a `REGISTER` word for every handler present, which the next steps run (R168; the
input that stands for it is the model's, log 5). With the default map, registering every handler after `RESET`, in id order,
meets no conflict, and every one that is present is registered. (The spec marks as its own decisions D43 in R500; as its own
derivations in R510; followed as the spec says, log 23.) -/
def Obligations.ResetAndRegistration : Prop :=
  (∀ s : State, ∃ t, exec .reset s = .next t ∧ t.fault = none ∧ t.draws = s.draws + 1 ∧ t.cfg = s.cfg ∧ t.cpu = s.cpu ∧
     t.ext = s.ext ∧ t.pending = s.pending ∧ t.rdata = s.rdata ∧ t.trace = s.trace ∧
     (s = State.reset → { t with draws := 0 } = State.reset)) ∧
  (∀ s : State, s.defaultMap → ∃ t u, exec .reset s = .next t ∧
     execAll (HandlerId.all.map .register) t = .next u ∧ u.fault = none ∧
     u = t.setBus { t.bus with registered := u.bus.registered } ∧
     u.bus.registered =
       if s.cfg.hwMode = .cgb then HandlerId.all
       else [.cartridge, .workRam, .highRam, .joypad, .serial, .timer, .cpuRegs, .apu, .ppu, .oamDma]) ∧
  (∀ (s : State) (rest : List Input), s.fault = none → s.pending = .registerAll :: rest →
     step s = .next (s.setPending (((if s.cfg.hwMode = .cgb then [0, 1, 2, 3, 4, 5, 6, 7, 8, 9, 10]
       else [0, 1, 2, 3, 4, 5, 6, 7, 8, 9]).map
         fun n => Input.word (0b0011#4 ++ 0#22 ++ BitVec.ofNat 4 n : BitVec 30)) ++ rest)))

/-! The dispatcher. -/

/-- R127: every `BUS` word, whatever row it decodes to, is the access its own fields say, and a read changes nothing but the
byte its issuer holds (R94). -/
def Obligations.BusWordsAreAccesses : Prop :=
  (∀ (w : Word) (i : Instr) (s : State), decode w = .ok i → wordClass w = 0#4 →
    exec i s = if wordRw w = true then exec (.wr (wordHb w) (wordAddr w) (wordData w)) s
      else exec (.rd (wordHb w) (wordAddr w)) s) ∧
  (∀ w : Word, wordClass w = 0#4 → ∃ i, decode w = .ok i) ∧
  (∀ (s : State) (hb : Bool) (a : Addr), ∃ b, exec (.rd hb a) s = .next (s.setRdata (some b)))

/-- R163, R164: what a read returns and what a write does, by the dispatcher's order: blocked, unmapped, or the rule of the
owner's place. The places outside the block: R84, R86, R463: 0xC000 to 0xCFFF is always bank 0 of work RAM, the region from
0xD000 the bank of the bank register's low three bits, 0 (and so 8) giving 1, or bank 1 in DMG mode (log 16), the region
from 0xE000 their echo; a write changes its one byte and no other. High RAM is plain memory, or changes its own state only,
as it is configured (log 8); the bank register, IF and IE store the byte, and IF and IE read it back (log 8, log 9). Of the
handlers that are opaque (R167: the cartridge's ROM and RAM, the joypad, the serial and the speed-switch registers) a read
is a function of the handler's own state and of the address, and a write changes that handler's own state and nothing else,
as a function of that state, the address and the byte; what the functions are is left free (log 8). (The spec marks as its
own decisions D2 in R84, D4 in R163, D42 in R463, D46 in R84; as general knowledge in R84, R463; followed as the spec says,
log 23.) -/
def Obligations.BusAccessResult : Prop :=
  (∀ (s : State) (a : Addr) (hb : Bool), ∃ b, exec (.rd hb a) s = .next (s.setRdata (some b)) ∧
     (∀ g, hb = true → s.cfg.segmentOf a = some g → s.bus.blocked g = true →
       b = if s.cfg.extBlockQuirk = true ∧ g = .general then s.bus.lastDmaByte else s.cfg.blockedReadValue) ∧
     (¬ AccessBlocked s a hb → ownerOf s a = none → b = s.cfg.unmappedReadValue) ∧
     (∀ h p, ¬ AccessBlocked s a hb → ownerOf s a = some h → s.cfg.placeAt h a = some p →
       b = readPlace p (a.toNat - (s.cfg.base p).toNat) a hb s)) ∧
  (∀ (s : State) (a : Addr) (v : Byte) (hb : Bool),
     (AccessBlocked s a hb → exec (.wr hb a v) s = .next s) ∧
     (¬ AccessBlocked s a hb → ownerOf s a = none → exec (.wr hb a v) s = .next s) ∧
     (∀ h p, ¬ AccessBlocked s a hb → ownerOf s a = some h → s.cfg.placeAt h a = some p →
       exec (.wr hb a v) s = .next (writePlace p (a.toNat - (s.cfg.base p).toNat) a v hb s))) ∧
  (∀ (s : State) (hb : Bool) (p : Place) (off : Nat) (v : Byte), p ∈ [Place.wramFixed, .wramBank, .wramEcho] →
     off < p.size → Reached s p off hb →
     (let pos := if p = .wramBank then 0x1000 + off else off
      let bank := if pos < 0x1000 then 0 else if s.cfg.hwMode = .dmg ∨ s.ext.svbk.toNat % 8 = 0 then 1 else s.ext.svbk.toNat % 8
      let cell := 0x1000 * bank + pos % 0x1000
      exec (.rd hb (placeAddr p off)) s = .next (s.setRdata (some (readCell .workRam 0 s.ext.wram cell))) ∧
      ∃ t, exec (.wr hb (placeAddr p off) v) s = .next t ∧ t = s.setExt { s.ext with wram := t.ext.wram } ∧
        ∀ k, readCell .workRam 0 t.ext.wram k = if k = cell then v else readCell .workRam 0 s.ext.wram k)) ∧
  (∀ (s : State) (hb : Bool) (off : Nat) (v : Byte), off < 0x7F → Reached s .hram off hb →
     (s.cfg.highRam = .memory →
       exec (.rd hb (placeAddr .hram off)) s = .next (s.setRdata (some (readCell .highRam 0 s.ext.hram off))) ∧
       ∃ t, exec (.wr hb (placeAddr .hram off) v) s = .next t ∧ t = s.setExt { s.ext with hram := t.ext.hram } ∧
         ∀ k, readCell .highRam 0 t.ext.hram k = if k = off then v else readCell .highRam 0 s.ext.hram k) ∧
     (s.cfg.highRam = .opaqueHandler →
       exec (.rd hb (placeAddr .hram off)) s =
         .next (s.setRdata (some (Config.extRead .highRam s.ext.hramToken (placeAddr .hram off)))) ∧
       ∃ t, exec (.wr hb (placeAddr .hram off) v) s = .next t ∧ t = s.setExt { s.ext with hramToken := t.ext.hramToken })) ∧
  (∀ (s : State) (hb : Bool) (v : Byte),
     (Reached s .svbk 0 hb → exec (.rd hb (placeAddr .svbk 0)) s = .next (s.setRdata (some (Config.svbkRead s.ext.svbk))) ∧
       exec (.wr hb (placeAddr .svbk 0) v) s = .next (s.setExt { s.ext with svbk := v })) ∧
     (Reached s .ifReg 0 hb → exec (.rd hb (placeAddr .ifReg 0)) s = .next (s.setRdata (some s.cpu.ifr)) ∧
       exec (.wr hb (placeAddr .ifReg 0) v) s = .next (s.setCpu { s.cpu with ifr := v })) ∧
     (Reached s .ieReg 0 hb → exec (.rd hb (placeAddr .ieReg 0)) s = .next (s.setRdata (some s.cpu.ie)) ∧
       exec (.wr hb (placeAddr .ieReg 0) v) s = .next (s.setCpu { s.cpu with ie := v }))) ∧
  (∀ (s : State) (hb : Bool) (p : Place) (off : Nat) (v : Byte), off < p.size → Reached s p off hb →
     (let a := placeAddr p off
      (p ∈ [Place.cartRom, .cartRam] →
        exec (.rd hb a) s = .next (s.setRdata (some (Config.extRead .cartridge s.ext.cartToken a))) ∧
        exec (.wr hb a v) s = .next (s.setExt { s.ext with
          cartToken := Config.extWrite .cartridge s.ext.cartToken a v })) ∧
      (p = .joyp →
        exec (.rd hb a) s = .next (s.setRdata (some (Config.extRead .joypad s.ext.joypToken a))) ∧
        exec (.wr hb a v) s = .next (s.setExt { s.ext with
          joypToken := Config.extWrite .joypad s.ext.joypToken a v })) ∧
      (p = .serialRegs →
        exec (.rd hb a) s = .next (s.setRdata (some (Config.extRead .serial s.ext.serialToken a))) ∧
        exec (.wr hb a v) s = .next (s.setExt { s.ext with
          serialToken := Config.extWrite .serial s.ext.serialToken a v })) ∧
      (p = .speedSwitch →
        exec (.rd hb a) s = .next (s.setRdata (some (Config.extRead .cpuRegs s.cpu.speedToken a))) ∧
        exec (.wr hb a v) s = .next (s.setCpu { s.cpu with
          speedToken := Config.extWrite .cpuRegs s.cpu.speedToken a v }))))

/-- R84, R126, R161: with the default map, every address of a registered handler's place is delivered to that place, unless
its segment is blocked; whatever else is registered does not matter. (The spec marks as its own decisions D2 in R84, D46 in
R84; as general knowledge in R84, R126; followed as the spec says, log 23.) -/
def Obligations.RegisteredPlacesAreReached : Prop :=
  ∀ (s : State) (p : Place) (off : Nat) (hb : Bool), s.defaultMap → s.cfg.present p = true →
    placeHandler p ∈ s.bus.registered → off < p.size → ¬ AccessBlocked s (placeAddr p off) hb → Reached s p off hb

/-- R161, R162, R460: `REGISTER` takes every address of the claimed set, or, if one is owned by a different handler, changes
nothing but to record the fault with the lowest such address; `UNREGISTER` gives up the addresses that the handler owns, and
no other. (The spec marks as its own decisions D7 in R162 and R460; followed as the spec says, log 23.) -/
def Obligations.OwnerMapChanges : Prop :=
  (∀ (s : State) (hid : HandlerId), BusInv s →
     ((∀ a h, s.cfg.claims hid a = true → ownerOf s a = some h → h = hid) →
       ∃ t, exec (.register hid) s = .next t ∧
         (∀ a, ownerOf t a = if s.cfg.claims hid a = true then some hid else ownerOf s a) ∧
         t = s.setBus { s.bus with registered := t.bus.registered }) ∧
     (∀ a h, s.cfg.claims hid a = true → ownerOf s a = some h → h ≠ hid →
       (∀ b k, s.cfg.claims hid b = true → ownerOf s b = some k → k ≠ hid → a.toNat ≤ b.toNat) →
       exec (.register hid) s = .next (s.setFault (some (.duplicateClaim hid a))))) ∧
  (∀ (s : State) (hid : HandlerId), BusInv s →
     ∃ t, exec (.unregister hid) s = .next t ∧
       (∀ a, ownerOf t a = if ownerOf s a = some hid then none else ownerOf s a) ∧
       t = s.setBus { s.bus with registered := t.bus.registered })

/-- R165: `BLOCK` sets the one flag to the value given, and nothing else. -/
def Obligations.BlockSetsOneFlag : Prop :=
  ∀ (s : State) (v : Bool),
    exec (.block .oam v) s = .next (s.setBus { s.bus with blockedOam := v }) ∧
    exec (.block .general v) s = .next (s.setBus { s.bus with blockedGeneral := v })

/-! The Timer. -/

/-- R53, R331, R334 to R339: DIV reads the counter's high byte; a write of any value clears the counter, and counts TIMA up
if the selected bit was high with the timer enabled. TIMA reads as it stands; a write cancels a pending reload, is lost in
the hold window, and is stored otherwise. (The spec marks as its own decisions D31 in R53 and R339, D32 in R331; as general
knowledge in R339; followed as the spec says, log 23.) -/
def Obligations.DivAndTimaRegisters : Prop :=
  (∀ (s : State) (hb : Bool) (v : Byte), Reached s .div 0 hb →
     exec (.rdDiv hb) s = .next (s.setRdata (some (s.timer.counter.extractLsb' 8 8))) ∧
     (s.timer.tac.getLsbD 2 = true ∧ s.timer.counter.getLsbD s.timer.selBit.index = true →
       exec (.wrDiv hb v) s = .next (s.setTimer { s.timer with
         counter := 0#16
         tima := s.timer.tima + 1#8
         reloadCtr := if s.timer.tima = 0xFF#8 then 4 + s.cfg.timaReloadHold else s.timer.reloadCtr })) ∧
     (¬ (s.timer.tac.getLsbD 2 = true ∧ s.timer.counter.getLsbD s.timer.selBit.index = true) →
       exec (.wrDiv hb v) s = .next (s.setTimer { s.timer with counter := 0#16 }))) ∧
  (∀ (s : State) (hb : Bool) (v : Byte), Reached s .tima 0 hb →
     exec (.rdTima hb) s = .next (s.setRdata (some s.timer.tima)) ∧
     (s.cfg.timaReloadHold < s.timer.reloadCtr →
       exec (.wrTima hb v) s = .next (s.setTimer { s.timer with tima := v, reloadCtr := 0 })) ∧
     (0 < s.timer.reloadCtr → s.timer.reloadCtr ≤ s.cfg.timaReloadHold → exec (.wrTima hb v) s = .next s) ∧
     (s.timer.reloadCtr = 0 → exec (.wrTima hb v) s = .next (s.setTimer { s.timer with tima := v })))

/-- R330, R331, R340 to R342: TMA reads and stores, and with the optional forwarding a write in the hold window reaches TIMA
too. A write of TAC stores its low three bits and selects counter bit 9, 3, 5 or 7; TIMA counts up if the observed signal
falls by it, and not if it stays or rises. (The spec marks as its own decisions D32 in R331 and R342, D33 in R340; as
general knowledge in R342; followed as the spec says, log 23.) -/
def Obligations.TmaAndTacRegisters : Prop :=
  (∀ (s : State) (hb : Bool) (v : Byte), Reached s .tma 0 hb →
     exec (.rdTma hb) s = .next (s.setRdata (some s.timer.tma)) ∧
     (s.cfg.tmaForwardInHold = true ∧ 0 < s.timer.reloadCtr ∧ s.timer.reloadCtr ≤ s.cfg.timaReloadHold →
       exec (.wrTma hb v) s = .next (s.setTimer { s.timer with tma := v, tima := v })) ∧
     (¬ (s.cfg.tmaForwardInHold = true ∧ 0 < s.timer.reloadCtr ∧ s.timer.reloadCtr ≤ s.cfg.timaReloadHold) →
       exec (.wrTma hb v) s = .next (s.setTimer { s.timer with tma := v }))) ∧
  (∀ (s : State) (hb : Bool) (v : Byte), Reached s .tac 0 hb →
     exec (.rdTac hb) s = .next (s.setRdata (some (0xF8#8 ||| s.timer.tac.setWidth 8))) ∧
     ∃ t, exec (.wrTac hb v) s = .next t ∧ t = s.setTimer t.timer ∧
       t.timer.tac = v.extractLsb' 0 3 ∧ t.timer.counter = s.timer.counter ∧ t.timer.tma = s.timer.tma ∧
       t.timer.selBit.index = [9, 3, 5, 7].getD (v.extractLsb' 0 2).toNat 0 ∧
       (let high := s.timer.tac.getLsbD 2 = true ∧ s.timer.counter.getLsbD s.timer.selBit.index = true
        let high' := v.getLsbD 2 = true ∧
          s.timer.counter.getLsbD ([9, 3, 5, 7].getD (v.extractLsb' 0 2).toNat 0) = true
        (high ∧ ¬ high' → t.timer.tima = s.timer.tima + 1#8 ∧ t.timer.reloadCtr =
          if s.timer.tima = 0xFF#8 then 4 + s.cfg.timaReloadHold else s.timer.reloadCtr) ∧
        (¬ (high ∧ ¬ high') → t.timer.tima = s.timer.tima ∧ t.timer.reloadCtr = s.timer.reloadCtr)))

/-- R333: a tick of the Timer counts the reload counter down, reloads TIMA and requests interrupt 2 on the fourth tick after
an overflow, counts the counter up, and counts TIMA up on a falling edge of the observed signal. (The spec marks as its own
decisions D31 in R333; followed as the spec says, log 23.) -/
def Obligations.TickTimerEffect : Prop :=
  ∀ s : State, ∃ t, exec .tickTimer s = .next t ∧ t = (s.setTimer t.timer).setCpu t.cpu ∧
    t.timer.counter = s.timer.counter + 1#16 ∧ t.timer.tma = s.timer.tma ∧ t.timer.tac = s.timer.tac ∧
    t.timer.selBit = s.timer.selBit ∧
    t.cpu = (if s.timer.reloadCtr = s.cfg.timaReloadHold + 1 then { s.cpu with ifr := s.cpu.ifr ||| 0x04#8 } else s.cpu) ∧
    (let reloaded := if s.timer.reloadCtr = s.cfg.timaReloadHold + 1 then s.timer.tma else s.timer.tima
     let falls := s.timer.tac.getLsbD 2 = true ∧ s.timer.counter.getLsbD s.timer.selBit.index = true ∧
       (s.timer.counter + 1#16).getLsbD s.timer.selBit.index = false
     (falls → t.timer.tima = reloaded + 1#8 ∧
       t.timer.reloadCtr = if reloaded = 0xFF#8 then 4 + s.cfg.timaReloadHold else s.timer.reloadCtr - 1) ∧
     (¬ falls → t.timer.tima = reloaded ∧ t.timer.reloadCtr = s.timer.reloadCtr - 1))

/-- R344: from the tick on which TIMA overflows, it reads 0 and interrupt 2 is not requested for three ticks more; on the
fourth it holds TMA and interrupt 2 is requested. (The spec marks as its own derivations in R344; followed as the spec says,
log 23.) -/
def Obligations.TimerOverflowTimeline : Prop :=
  ∀ s : State, s.timer.tac.getLsbD 2 = true → s.timer.tima = 0xFF#8 → s.timer.reloadCtr = 0 →
    s.timer.counter.getLsbD s.timer.selBit.index = true →
    (s.timer.counter + 1#16).getLsbD s.timer.selBit.index = false →
    (∀ n, n < 4 → ∃ t, execAll (List.replicate (n + 1) .tickTimer) s = .next t ∧ t.timer.tima = 0#8 ∧
      t.timer.reloadCtr = 4 + s.cfg.timaReloadHold - n ∧ t.cpu = s.cpu) ∧
    ∃ t, execAll (List.replicate 5 .tickTimer) s = .next t ∧ t.timer.tima = s.timer.tma ∧
      t.cpu = { s.cpu with ifr := s.cpu.ifr ||| 0x04#8 }

/-- R343: with the Timer enabled and no reload pending and TIMA below 0xFF, TIMA counts up exactly once in every `2 ^ (b +
1)` ticks, `b` the selected counter bit, wherever the counter stands. (The spec marks as its own derivations in R343;
followed as the spec says, log 23.) -/
def Obligations.TimaRate : Prop :=
  ∀ s : State, s.timer.tac.getLsbD 2 = true → s.timer.reloadCtr = 0 → s.timer.tima ≠ 0xFF#8 →
    ∃ t, execAll (List.replicate (2 ^ (s.timer.selBit.index + 1)) .tickTimer) s = .next t ∧
      t.timer.tima = s.timer.tima + 1#8 ∧ t.timer.reloadCtr = 0 ∧ t.cpu = s.cpu

/-! The PPU. -/

/-- R202: SCY, SCX, BGP, OBP0, OBP1, WY and WX read as stored and store what is written, with no side effect. -/
def Obligations.PlainPpuRegisters : Prop :=
  ∀ (s : State) (hb : Bool) (v : Byte),
    (Reached s .scy 0 hb → exec (.rdScy hb) s = .next (s.setRdata (some s.ppu.scy)) ∧
      exec (.wrScy hb v) s = .next (s.setPpu { s.ppu with scy := v })) ∧
    (Reached s .scx 0 hb → exec (.rdScx hb) s = .next (s.setRdata (some s.ppu.scx)) ∧
      exec (.wrScx hb v) s = .next (s.setPpu { s.ppu with scx := v })) ∧
    (Reached s .bgp 0 hb → exec (.rdBgp hb) s = .next (s.setRdata (some s.ppu.bgp)) ∧
      exec (.wrBgp hb v) s = .next (s.setPpu { s.ppu with bgp := v })) ∧
    (Reached s .obp0 0 hb → exec (.rdObp0 hb) s = .next (s.setRdata (some s.ppu.obp0)) ∧
      exec (.wrObp0 hb v) s = .next (s.setPpu { s.ppu with obp0 := v })) ∧
    (Reached s .obp1 0 hb → exec (.rdObp1 hb) s = .next (s.setRdata (some s.ppu.obp1)) ∧
      exec (.wrObp1 hb v) s = .next (s.setPpu { s.ppu with obp1 := v })) ∧
    (Reached s .wy 0 hb → exec (.rdWy hb) s = .next (s.setRdata (some s.ppu.wy)) ∧
      exec (.wrWy hb v) s = .next (s.setPpu { s.ppu with wy := v })) ∧
    (Reached s .wx 0 hb → exec (.rdWx hb) s = .next (s.setRdata (some s.ppu.wx)) ∧
      exec (.wrWx hb v) s = .next (s.setPpu { s.ppu with wx := v }))

/-- R195 to R197: LCDC reads as stored; a write that clears bit 7 resets the PPU's line and pipeline state, one that sets it
starts an OAM scan, and both then update the STAT line; any other write only stores. (The spec marks as its own decisions
D21 in R196 and R197; followed as the spec says, log 23.) -/
def Obligations.LcdcReadAndWrite : Prop :=
  ∀ (s : State) (hb : Bool) (v : Byte), Reached s .lcdc 0 hb →
    exec (.rdLcdc hb) s = .next (s.setRdata (some s.ppu.lcdc)) ∧
    (s.ppu.lcdc.getLsbD 7 = true → v.getLsbD 7 = false →
      ∃ t, exec (.wrLcdc hb v) s = .next t ∧ StatLineUpdated (s.setPpu { s.ppu with
        lcdc := v, ly := 0, lineTicks := 0, mode := .hblank, bgFifo := [], spFifo := [], fetchState := .fetchTileSleep,
        fetchX := 0, spriteState := .idle, lx := 0, discard := 0, inWindow := false, windowDrawn := false, winLy := 0,
        spritesAt := [], lineSprites := 0 }) t) ∧
    (s.ppu.lcdc.getLsbD 7 = false → v.getLsbD 7 = true →
      ∃ t, exec (.wrLcdc hb v) s = .next t ∧ StatLineUpdated (s.setPpu { s.ppu with
        lcdc := v, mode := .oamScan, spritesAt := [], lineSprites := 0, windowDrawn := false }) t) ∧
    (s.ppu.lcdc.getLsbD 7 = v.getLsbD 7 → exec (.wrLcdc hb v) s = .next (s.setPpu { s.ppu with lcdc := v }))

/-- R31, R190, R198 to R201: what STAT, LY and LYC read, the mode in bits 1:0 by the numbers of R31 (G11); a write of STAT
stores the four enables and a write of LYC the byte, and both update the STAT line; a write of LY does nothing. (The spec
marks as general knowledge in R31; followed as the spec says, log 23.) -/
def Obligations.StatLyLycReadAndWrite : Prop :=
  ∀ (s : State) (hb : Bool) (v : Byte),
    (Reached s .stat 0 hb →
      exec (.rdStat hb) s = .next (s.setRdata (some (0x80#8 ||| (s.ppu.statEn.setWidth 8 <<< 3)
        ||| (if s.ppu.ly = s.ppu.lyc.toNat then 0x04#8 else 0x00#8)
        ||| (match s.ppu.mode with | .hblank => 0#8 | .vblank => 1#8 | .oamScan => 2#8 | .pixelTransfer => 3#8)))) ∧
      ∃ t, exec (.wrStat hb v) s = .next t ∧
        StatLineUpdated (s.setPpu { s.ppu with statEn := v.extractLsb' 3 4 }) t) ∧
    (Reached s .ly 0 hb → exec (.rdLy hb) s = .next (s.setRdata (some (BitVec.ofNat 8 s.ppu.ly))) ∧
      exec (.wrLy hb v) s = .next s) ∧
    (Reached s .lyc 0 hb → exec (.rdLyc hb) s = .next (s.setRdata (some s.ppu.lyc)) ∧
      ∃ t, exec (.wrLyc hb v) s = .next t ∧ StatLineUpdated (s.setPpu { s.ppu with lyc := v }) t)

/-- R192: with STAT bit 6 set and no other enabled condition true, switching `ly = lyc` on, off and on again by writes of
LYC requests interrupt 1 exactly twice, whatever the CPU does with IF between the writes. -/
def Obligations.LycToggleRequestsTwice : Prop :=
  ∀ (s : State) (hb : Bool) (n : Byte) (c1 c2 : Cpu), Reached s .lyc 0 hb →
    s.ppu.statEn.getLsbD 3 = true → ¬ (s.ppu.statEn.getLsbD 0 = true ∧ s.ppu.mode = .hblank) →
    ¬ (s.ppu.statEn.getLsbD 1 = true ∧ s.ppu.mode = .vblank) → ¬ (s.ppu.statEn.getLsbD 2 = true ∧ s.ppu.mode = .oamScan) →
    s.ppu.statLine = false → s.ppu.ly < 256 → n.toNat ≠ s.ppu.ly →
    ∃ t1 t2 t3, exec (.wrLyc hb (BitVec.ofNat 8 s.ppu.ly)) s = .next t1 ∧
      exec (.wrLyc hb n) (t1.setCpu c1) = .next t2 ∧
      exec (.wrLyc hb (BitVec.ofNat 8 s.ppu.ly)) (t2.setCpu c2) = .next t3 ∧
      t1.cpu = { s.cpu with ifr := s.cpu.ifr ||| 0x02#8 } ∧ t2.cpu = c1 ∧ t3.cpu = { c2 with ifr := c2.ifr ||| 0x02#8 }

/-- R203 to R205: VRAM through the bus is the bank that VBK selects in CGB mode, and bank 0 in DMG mode; OAM is its 160
bytes: a read returns the byte, a write changes that byte and no other; under the optional mode lock a read returns 0xFF and
a write is dropped. (The spec marks as its own decisions D22 in R204; as general knowledge in R204; followed as the spec
says, log 23.) -/
def Obligations.VramAndOamAccess : Prop :=
  (∀ (s : State) (hb : Bool) (off : BitVec 13) (v : Byte), Reached s .vram off.toNat hb →
     (let bank := if s.cfg.hwMode = .cgb then s.ppu.vbk.toNat else 0
      let locked := s.cfg.ppuModeAccessLock = true ∧ hb = true ∧ s.ppu.lcdc.getLsbD 7 = true ∧ s.ppu.mode = .pixelTransfer
      (¬ locked → exec (.rdVram hb off) s = .next (s.setRdata (some (s.ppuEnv.vram s.ppu bank off.toNat))) ∧
        ∃ t, exec (.wrVram hb off v) s = .next t ∧ t = s.setPpu { s.ppu with vram := t.ppu.vram } ∧
          ∀ (b : BitVec 1) (o : BitVec 13), t.ppuEnv.vram t.ppu b.toNat o.toNat =
            if b.toNat = bank ∧ o = off then v else s.ppuEnv.vram s.ppu b.toNat o.toNat) ∧
      (locked → exec (.rdVram hb off) s = .next (s.setRdata (some 0xFF#8)) ∧ exec (.wrVram hb off v) s = .next s))) ∧
  (∀ (s : State) (hb : Bool) (i : Byte) (v : Byte), Reached s .oam i.toNat hb →
     (let locked := s.cfg.ppuModeAccessLock = true ∧ hb = true ∧ s.ppu.lcdc.getLsbD 7 = true ∧
        (s.ppu.mode = .oamScan ∨ s.ppu.mode = .pixelTransfer)
      (¬ locked → exec (.rdOam hb i) s = .next (s.setRdata (some (s.ppuEnv.oam s.ppu i.toNat))) ∧
        ∃ t, exec (.wrOam hb i v) s = .next t ∧ t = s.setPpu { s.ppu with oam := t.ppu.oam } ∧
          ∀ j, t.ppuEnv.oam t.ppu j = if j = i.toNat then v else s.ppuEnv.oam s.ppu j) ∧
      (locked → exec (.rdOam hb i) s = .next (s.setRdata (some 0xFF#8)) ∧ exec (.wrOam hb i v) s = .next s)))

/-- R203, R206, R207, R209: VBK and OPRI store bit 0 and read the other bits as one; BCPS and OCPS store all but bit 6,
which reads as one; BCPD and OCPD reach the palette byte at that index: a write changes that byte and no other, and counts
the index up modulo 64 if bit 7 is set. (The spec marks as general knowledge in R206, R207, R209; followed as the spec says,
log 23.) -/
def Obligations.CgbPpuRegisters : Prop :=
  (∀ (s : State) (hb : Bool) (v : Byte),
     (Reached s .vbk 0 hb → exec (.rdVbk hb) s = .next (s.setRdata (some (0xFE#8 ||| s.ppu.vbk.setWidth 8))) ∧
       exec (.wrVbk hb v) s = .next (s.setPpu { s.ppu with vbk := v.setWidth 1 })) ∧
     (Reached s .opri 0 hb → exec (.rdOpri hb) s = .next (s.setRdata (some (0xFE#8 ||| s.ppu.opri.setWidth 8))) ∧
       exec (.wrOpri hb v) s = .next (s.setPpu { s.ppu with opri := v.setWidth 1 })) ∧
     (Reached s .bcps 0 hb → exec (.rdBcps hb) s = .next (s.setRdata (some (s.ppu.bcps ||| 0x40#8))) ∧
       exec (.wrBcps hb v) s = .next (s.setPpu { s.ppu with bcps := v &&& 0xBF#8 })) ∧
     (Reached s .ocps 0 hb → exec (.rdOcps hb) s = .next (s.setRdata (some (s.ppu.ocps ||| 0x40#8))) ∧
       exec (.wrOcps hb v) s = .next (s.setPpu { s.ppu with ocps := v &&& 0xBF#8 }))) ∧
  (∀ (s : State) (hb : Bool) (v : Byte),
     (Reached s .bcpd 0 hb →
       exec (.rdBcpd hb) s = .next (s.setRdata (some (s.ppuEnv.bgPal s.ppu (s.ppu.bcps.toNat % 64)))) ∧
       ∃ t, exec (.wrBcpd hb v) s = .next t ∧ t = s.setPpu { s.ppu with bgPal := t.ppu.bgPal, bcps := t.ppu.bcps } ∧
         (∀ i, t.ppuEnv.bgPal t.ppu i = if i = s.ppu.bcps.toNat % 64 then v else s.ppuEnv.bgPal s.ppu i) ∧
         t.ppu.bcps.toNat = s.ppu.bcps.toNat / 64 * 64 +
           (if s.ppu.bcps.getLsbD 7 = true then (s.ppu.bcps.toNat + 1) % 64 else s.ppu.bcps.toNat % 64)) ∧
     (Reached s .ocpd 0 hb →
       exec (.rdOcpd hb) s = .next (s.setRdata (some (s.ppuEnv.objPal s.ppu (s.ppu.ocps.toNat % 64)))) ∧
       ∃ t, exec (.wrOcpd hb v) s = .next t ∧ t = s.setPpu { s.ppu with objPal := t.ppu.objPal, ocps := t.ppu.ocps } ∧
         (∀ i, t.ppuEnv.objPal t.ppu i = if i = s.ppu.ocps.toNat % 64 then v else s.ppuEnv.objPal s.ppu i) ∧
         t.ppu.ocps.toNat = s.ppu.ocps.toNat / 64 * 64 +
           (if s.ppu.ocps.getLsbD 7 = true then (s.ppu.ocps.toNat + 1) % 64 else s.ppu.ocps.toNat % 64)))

/-- R208: in DMG mode, with the default map, no handler owns a CGB register: a read returns the unmapped value and a write
does nothing, whatever is registered. (The spec marks as its own decisions D46 in R208; followed as the spec says, log 23.)
-/
def Obligations.CgbRegistersUnmappedInDmg : Prop :=
  ∀ (s : State) (hb : Bool) (v : Byte) (p : Place), s.defaultMap → s.cfg.hwMode = .dmg →
    p ∈ [Place.vbk, .hdma1, .hdma2, .hdma3, .hdma4, .hdma5, .bcps, .bcpd, .ocps, .ocpd, .opri] →
    exec (readInstr p hb (placeAddr p 0)) s = .next (s.setRdata (some s.cfg.unmappedReadValue)) ∧
    exec (writeInstr p hb (placeAddr p 0) v) s = .next s

/-- R182: with the LCD disabled a dot does nothing at all. -/
def Obligations.DotWithLcdOff : Prop :=
  ∀ s : State, s.ppu.lcdc.getLsbD 7 = false → exec .tickPpu s = .next s

/-- R183, R184, R190, R194: a dot with the LCD enabled: the count of the line and of the frame, the mode changes inside a
line and at its end, the VBlank event with interrupt 0 on entry to line 144, and the STAT interrupt on a rise of its line.
Nothing outside the PPU, IF and the output trace changes, and no register or memory of the PPU does. The dot that ends the
OAM scan starts the pixel pipeline anew (R224); the dot that starts a visible line empties the sprite map (R221); the count
of window lines goes up at the end of the pixel transfer of a line that drew the window and is cleared for line 0 (R252).
That it so reaches 144 after line 143, where R33 gives the range 0 to 143, follows R183 (DEDUCED, log 14). What else changes
in the OAM scan is the sprite map, in HBlank and VBlank nothing. (The spec marks as its own decisions D11 in R183, D19 in
R224, D45 in R194; as general knowledge in R33, R252; followed as the spec says, log 23.) -/
def Obligations.DotTiming : Prop :=
  ∀ s : State, PpuInv s.ppu → s.ppu.lcdc.getLsbD 7 = true →
    ∃ t, exec .tickPpu s = .next t ∧
      t = ((s.setPpu t.ppu).setCpu t.cpu).setTrace t.trace ∧
      (s.ppu.lineTicks < 455 → t.ppu.lineTicks = s.ppu.lineTicks + 1 ∧ t.ppu.ly = s.ppu.ly ∧ t.trace = s.trace) ∧
      (s.ppu.lineTicks = 455 → t.ppu.lineTicks = 0 ∧ t.ppu.ly = (s.ppu.ly + 1) % 154 ∧
        t.ppu.mode = (if (s.ppu.ly + 1) % 154 < 144 then .oamScan else .vblank) ∧
        t.trace = if s.ppu.ly = 143 then s.trace ++ [.vblank t.ppu.fb s.draws] else s.trace) ∧
      (s.ppu.lineTicks < 455 → s.ppu.mode = .oamScan →
        t.ppu.mode = if s.ppu.lineTicks = 79 then .pixelTransfer else .oamScan) ∧
      (s.ppu.lineTicks < 455 → s.ppu.mode = .pixelTransfer →
        t.ppu.mode = if t.ppu.lx = 160 then .hblank else .pixelTransfer) ∧
      (s.ppu.lineTicks < 455 → s.ppu.mode = .hblank → t.ppu.mode = .hblank) ∧
      (s.ppu.lineTicks < 455 → s.ppu.mode = .vblank → t.ppu.mode = .vblank) ∧
      t.ppu = { t.ppu with
        lcdc := s.ppu.lcdc, statEn := s.ppu.statEn, scy := s.ppu.scy, scx := s.ppu.scx, lyc := s.ppu.lyc, bgp := s.ppu.bgp,
        obp0 := s.ppu.obp0, obp1 := s.ppu.obp1, wy := s.ppu.wy, wx := s.ppu.wx, vbk := s.ppu.vbk, bcps := s.ppu.bcps,
        ocps := s.ppu.ocps, opri := s.ppu.opri, vram := s.ppu.vram, oam := s.ppu.oam, bgPal := s.ppu.bgPal,
        objPal := s.ppu.objPal } ∧
      (s.ppu.lineTicks < 455 → s.ppu.mode = .oamScan →
        (let scanned := { s.ppu with
           lineTicks := s.ppu.lineTicks + 1, statLine := t.ppu.statLine, spritesAt := t.ppu.spritesAt,
           lineSprites := t.ppu.lineSprites }
         t.ppu = if s.ppu.lineTicks = 79 then
           { scanned with
             mode := .pixelTransfer, bgFifo := [], spFifo := [], fetchState := .fetchTileSleep, fetchX := 0,
             spriteState := .idle, lx := 0, inWindow := false, discard := s.ppu.scx.toNat % 8 }
         else scanned)) ∧
      (s.ppu.lineTicks < 455 → s.ppu.mode = .pixelTransfer → t.ppu.lineSprites = s.ppu.lineSprites ∧
        t.ppu.winLy = if t.ppu.lx = 160 ∧ t.ppu.windowDrawn = true then s.ppu.winLy + 1 else s.ppu.winLy) ∧
      (s.ppu.lineTicks < 455 → s.ppu.mode ∈ [.hblank, .vblank] →
        t.ppu = { s.ppu with lineTicks := s.ppu.lineTicks + 1, statLine := t.ppu.statLine }) ∧
      (s.ppu.lineTicks = 455 → t.ppu.ly < 144 → t.ppu.spritesAt = [] ∧ t.ppu.lineSprites = 0 ∧ t.ppu.windowDrawn = false) ∧
      (s.ppu.lineTicks = 455 → s.ppu.mode ∈ [.hblank, .vblank] →
        (let ended := { s.ppu with
           lineTicks := 0, ly := (s.ppu.ly + 1) % 154, mode := t.ppu.mode, statLine := t.ppu.statLine }
         t.ppu = if (s.ppu.ly + 1) % 154 < 144 then
           { ended with
             winLy := (if (s.ppu.ly + 1) % 154 = 0 then 0 else s.ppu.winLy), windowDrawn := false, spritesAt := [],
             lineSprites := 0 }
         else ended)) ∧
      (t.ppu.statLine = true ↔
        (t.ppu.statEn.getLsbD 0 = true ∧ t.ppu.mode = .hblank) ∨ (t.ppu.statEn.getLsbD 1 = true ∧ t.ppu.mode = .vblank) ∨
        (t.ppu.statEn.getLsbD 2 = true ∧ t.ppu.mode = .oamScan) ∨
        (t.ppu.statEn.getLsbD 3 = true ∧ t.ppu.ly = t.ppu.lyc.toNat)) ∧
      t.cpu = { s.cpu with ifr := s.cpu.ifr
        ||| (if s.ppu.lineTicks = 455 ∧ s.ppu.ly = 143 then 0x01#8 else 0x00#8)
        ||| (if t.ppu.statLine = true ∧ s.ppu.statLine = false then 0x02#8 else 0x00#8) }

/-- R180, R193, R194: from any point of a frame, 70224 dots lead back to the same line and dot, and make exactly one VBlank
event. (The spec marks as its own decisions D45 in R194; as general knowledge in R193; as its own derivations in R180;
followed as the spec says, log 23.) -/
def Obligations.OneVBlankInAFrame : Prop :=
  ∀ s : State, PpuInv s.ppu → s.ppu.lcdc.getLsbD 7 = true →
    ∃ t fb, execAll (List.replicate 70224 .tickPpu) s = .next t ∧ t.ppu.ly = s.ppu.ly ∧
      t.ppu.lineTicks = s.ppu.lineTicks ∧ t.trace = s.trace ++ [.vblank fb s.draws]

/-- R225, R230 to R233, R236, R250, R252, R260 to R263: a pixel-transfer dot with no sprite to fetch. With no window trigger
and a background pixel waiting, that pixel is dropped while pixels are to be discarded; else the mixed colour is written at
the screen position, which moves on, both FIFOs lose their head, and no other pixel of the framebuffer changes. The tile
fetcher runs one sub-state: it reads the tile number and attributes from the map of the background or of the window's own
lines, then the two data bytes of the row, flipped as the attributes say, and pushes eight pixels into an empty FIFO, the
first of which leaves on the same dot. The window triggers on its condition, once a line: it empties the FIFO, starts the
fetcher again in the window, and ends the discard. (The spec marks as its own decisions D11 in R225, D13 in R230, D15 in
R225, D18 in R250, D19 in R263; as general knowledge in R231, R232, R252, R261, R262; followed as the spec says, log 23.) -/
def Obligations.PixelOutput : Prop :=
  (∀ (s : State) (bg : Pixel) (rest : List Pixel), PpuInv s.ppu → s.ppu.lcdc.getLsbD 7 = true →
       s.ppu.mode = .pixelTransfer → s.ppu.spriteState = .idle →
       (s.ppu.lcdc.getLsbD 1 = false ∨ queueAt s.ppu.spritesAt s.ppu.lx = []) →
       (s.ppu.inWindow = true ∨ s.ppu.lcdc.getLsbD 5 = false ∨ (s.cfg.hwMode = .dmg ∧ s.ppu.lcdc.getLsbD 0 = false) ∨
         s.ppu.ly < s.ppu.wy.toNat ∨ s.ppu.lx + 7 < s.ppu.wx.toNat) →
       s.ppu.bgFifo = bg :: rest →
       ∃ t, exec .tickPpu s = .next t ∧ t.ppu.bgFifo = rest ∧
         (0 < s.ppu.discard → t.ppu.discard = s.ppu.discard - 1 ∧ t.ppu.lx = s.ppu.lx ∧ t.ppu.fb = s.ppu.fb ∧
           t.ppu.spFifo = s.ppu.spFifo) ∧
         (s.ppu.discard = 0 → t.ppu.discard = 0 ∧ t.ppu.lx = s.ppu.lx + 1 ∧ t.ppu.spFifo = s.ppu.spFifo.tail ∧
           lookup t.ppu.fb (160 * s.ppu.ly + s.ppu.lx) =
             some (s.ppu.colour s.ppuEnv (s.ppu.mix s.cfg.hwMode bg s.ppu.spFifo.head?)) ∧
           ∀ k, k ≠ 160 * s.ppu.ly + s.ppu.lx → lookup t.ppu.fb k = lookup s.ppu.fb k)) ∧
  (∀ s : State, PpuInv s.ppu → s.ppu.lcdc.getLsbD 7 = true → s.ppu.mode = .pixelTransfer → s.ppu.spriteState = .idle →
    (s.ppu.lcdc.getLsbD 1 = false ∨ queueAt s.ppu.spritesAt s.ppu.lx = []) →
    (let triggers := s.ppu.inWindow = false ∧ s.ppu.lcdc.getLsbD 5 = true ∧
       (s.cfg.hwMode = .cgb ∨ s.ppu.lcdc.getLsbD 0 = true) ∧ s.ppu.wy.toNat ≤ s.ppu.ly ∧ s.ppu.wx.toNat ≤ s.ppu.lx + 7
     let map := fun (high : Bool) => if high = true then 0x1C00 else 0x1800
     let off := if s.ppu.inWindow = true then map (s.ppu.lcdc.getLsbD 6) + 32 * (s.ppu.winLy / 8 % 32) + s.ppu.fetchX % 32
       else map (s.ppu.lcdc.getLsbD 3) + 32 * ((s.ppu.ly + s.ppu.scy.toNat) % 256 / 8) +
         (s.ppu.scx.toNat / 8 + s.ppu.fetchX) % 32
     let line := if s.ppu.inWindow = true then s.ppu.winLy % 8 else (s.ppu.ly + s.ppu.scy.toNat) % 8
     let row := if s.ppu.fAttr.getLsbD 6 = true then 7 - line else line
     let addr := (if s.ppu.lcdc.getLsbD 4 = true ∨ 128 ≤ s.ppu.fTile.toNat then 16 * s.ppu.fTile.toNat
       else 0x1000 + 16 * s.ppu.fTile.toNat) + 2 * row
     let data := fun (i : Nat) =>
       let v := s.ppuEnv.vram s.ppu (if s.ppu.fAttr.getLsbD 3 = true then 1 else 0) i
       if s.ppu.fAttr.getLsbD 5 = true then v.reverse else v
     let pixel := fun (i : Nat) => (⟨BitVec.ofBool (s.ppu.fHigh.getLsbD (7 - i)) ++ BitVec.ofBool (s.ppu.fLow.getLsbD (7 - i)),
       s.ppu.fAttr.extractLsb' 0 3, s.ppu.fAttr.getLsbD 7, 0⟩ : Pixel)
     let fetcher := fun (p : Ppu) => (p.fetchState, p.fetchX, p.fTile, p.fAttr, p.fAddr, p.fLow, p.fHigh)
     ∃ t, exec .tickPpu s = .next t ∧
       (triggers → t.ppu.inWindow = true ∧ (s.ppu.lineTicks < 455 → t.ppu.windowDrawn = true) ∧ t.ppu.bgFifo = [] ∧
         t.ppu.discard = 0 ∧ t.ppu.lx = s.ppu.lx ∧ t.ppu.fb = s.ppu.fb ∧ t.ppu.spFifo = s.ppu.spFifo ∧
         fetcher t.ppu = (.fetchTile, 0, s.ppu.fTile, s.ppu.fAttr, s.ppu.fAddr, s.ppu.fLow, s.ppu.fHigh)) ∧
       (¬ triggers → t.ppu.inWindow = s.ppu.inWindow ∧ (s.ppu.lineTicks < 455 → t.ppu.windowDrawn = s.ppu.windowDrawn) ∧
         (s.ppu.fetchState = .fetchTileSleep → fetcher t.ppu = fetcher { s.ppu with fetchState := .fetchTile }) ∧
         (s.ppu.fetchState = .fetchTile → fetcher t.ppu = fetcher { s.ppu with
           fetchState := .fetchLowSleep, fTile := s.ppuEnv.vram s.ppu 0 off
           fAttr := if s.cfg.hwMode = .cgb then s.ppuEnv.vram s.ppu 1 off else 0x00#8 }) ∧
         (s.ppu.fetchState = .fetchLowSleep → fetcher t.ppu = fetcher { s.ppu with fetchState := .fetchLow }) ∧
         (s.ppu.fetchState = .fetchLow → fetcher t.ppu = fetcher { s.ppu with
           fetchState := .fetchHighSleep, fAddr := addr, fLow := data addr }) ∧
         (s.ppu.fetchState = .fetchHighSleep → fetcher t.ppu = fetcher { s.ppu with fetchState := .fetchHigh }) ∧
         (s.ppu.fetchState = .fetchHigh → fetcher t.ppu = fetcher { s.ppu with
           fetchState := if s.cfg.pushSleep = true then .pushSleep else .push, fHigh := data (s.ppu.fAddr + 1) }) ∧
         (s.ppu.fetchState = .pushSleep → fetcher t.ppu = fetcher { s.ppu with fetchState := .push }) ∧
         (s.ppu.fetchState = .push → s.ppu.bgFifo ≠ [] → fetcher t.ppu = fetcher s.ppu) ∧
         (s.ppu.fetchState ≠ .push → s.ppu.bgFifo = [] → t.ppu.bgFifo = [] ∧ t.ppu.lx = s.ppu.lx ∧ t.ppu.fb = s.ppu.fb) ∧
         (s.ppu.fetchState = .push → s.ppu.bgFifo = [] →
           fetcher t.ppu = fetcher { s.ppu with fetchState := .fetchTileSleep, fetchX := (s.ppu.fetchX + 1) % 32 } ∧
           t.ppu.bgFifo = [1, 2, 3, 4, 5, 6, 7].map pixel ∧
           (0 < s.ppu.discard → t.ppu.lx = s.ppu.lx ∧ t.ppu.fb = s.ppu.fb) ∧
           (s.ppu.discard = 0 → t.ppu.lx = s.ppu.lx + 1 ∧ lookup t.ppu.fb (160 * s.ppu.ly + s.ppu.lx) =
             some (s.ppu.colour s.ppuEnv (s.ppu.mix s.cfg.hwMode (pixel 0) s.ppu.spFifo.head?)))))))

/-- R261, R262: which pixel is shown: the sprite's, if it is opaque, sprites are enabled, and the background is transparent
or off, or yields by LCDC bit 0 in CGB mode, or neither priority bit holds it back; in DMG mode with LCDC bit 0 clear
nothing else. Its colour: in DMG mode the shade that BGP, OBP0 or OBP1 gives the colour index, in CGB mode the 15 bits at
the palette's entry in the background's or the sprites' palette memory. (The spec marks as general knowledge in R261, R262;
followed as the spec says, log 23.) -/
def Obligations.MixPriority : Prop :=
  (∀ (p : Ppu) (m : HwMode) (bg sp : Pixel),
       (let off := m = .dmg ∧ p.lcdc.getLsbD 0 = false
        let wins := sp.colorIndex ≠ 0#2 ∧ p.lcdc.getLsbD 1 = true ∧
          ((off ∨ bg.colorIndex = 0#2) ∨ (m = .cgb ∧ p.lcdc.getLsbD 0 = false) ∨
           (sp.backgroundPriority = false ∧ ¬ (m = .cgb ∧ bg.backgroundPriority = true)))
        (wins → p.mix m bg (some sp) = .sprite sp.colorIndex sp.paletteIndex) ∧
        (¬ wins → p.mix m bg (some sp) = p.mix m bg none) ∧
        (off → p.mix m bg none = .blank) ∧
        (¬ off → p.mix m bg none = .background bg.colorIndex bg.paletteIndex))) ∧
  (∀ (s : State) (c : BitVec 2) (pal : BitVec 3),
    (let table := s.cfg.dmgShade
     let shade := fun (r : Byte) =>
       [table.shade0, table.shade1, table.shade2, table.shade3].getD (r.toNat / 4 ^ c.toNat % 4) 0#15
     (s.cfg.hwMode = .dmg → s.ppu.colour s.ppuEnv (.background c pal) = shade s.ppu.bgp ∧
       s.ppu.colour s.ppuEnv (.sprite c pal) = shade (if pal = 0#3 then s.ppu.obp0 else s.ppu.obp1) ∧
       s.ppu.colour s.ppuEnv .blank = table.shade0) ∧
     (s.cfg.hwMode = .cgb →
       s.ppu.colour s.ppuEnv (.background c pal) =
         ((s.ppuEnv.bgPal s.ppu (8 * pal.toNat + 2 * c.toNat + 1)).extractLsb' 0 7 ++
           s.ppuEnv.bgPal s.ppu (8 * pal.toNat + 2 * c.toNat) : BitVec 15) ∧
       s.ppu.colour s.ppuEnv (.sprite c pal) =
         ((s.ppuEnv.objPal s.ppu (8 * pal.toNat + 2 * c.toNat + 1)).extractLsb' 0 7 ++
           s.ppuEnv.objPal s.ppu (8 * pal.toNat + 2 * c.toNat) : BitVec 15))))

/-- R223: on an odd dot of the OAM scan the entry of that dot is examined: it is selected exactly if fewer than ten are and
the line crosses it, is filed under the screen position of its first visible pixel, after the entries before it (in DMG mode
after those whose x is not larger), and no other queue changes; an even dot selects nothing. (The spec marks as its own
decisions D12 in R223; as general knowledge in R223; followed as the spec says, log 23.) -/
def Obligations.OamScanSelection : Prop :=
  ∀ s : State, PpuInv s.ppu → s.ppu.lcdc.getLsbD 7 = true → s.ppu.mode = .oamScan → s.ppu.lineTicks < 80 →
    ∃ t, exec .tickPpu s = .next t ∧
      (let i := (s.ppu.lineTicks - 1) / 2
       let byte := fun j => if s.bus.blockedOam = true then s.cfg.blockedReadValue else s.ppuEnv.oam s.ppu j
       let y := byte (4 * i)
       let x := byte (4 * i + 1)
       let selected := s.ppu.lineTicks % 2 = 1 ∧ s.ppu.lineSprites < 10 ∧ y.toNat ≤ s.ppu.ly + 16 ∧
         s.ppu.ly + 16 < y.toNat + (if s.ppu.lcdc.getLsbD 2 = true then 16 else 8)
       (¬ selected → t.ppu.lineSprites = s.ppu.lineSprites ∧ t.ppu.spritesAt = s.ppu.spritesAt) ∧
       (selected → t.ppu.lineSprites = s.ppu.lineSprites + 1 ∧
         (∀ k, k ≠ max x.toNat 8 - 8 → queueAt t.ppu.spritesAt k = queueAt s.ppu.spritesAt k) ∧
         (s.cfg.hwMode = .cgb → queueAt t.ppu.spritesAt (max x.toNat 8 - 8) =
           queueAt s.ppu.spritesAt (max x.toNat 8 - 8) ++ [⟨i, y, x⟩]) ∧
         (s.cfg.hwMode = .dmg → ∃ before after,
           queueAt s.ppu.spritesAt (max x.toNat 8 - 8) = before ++ after ∧
           queueAt t.ppu.spritesAt (max x.toNat 8 - 8) = before ++ ⟨i, y, x⟩ :: after ∧
           (before = [] ∨ ∃ r, before.getLast? = some r ∧ r.x.toNat ≤ x.toNat) ∧
           ∀ r ∈ after, x.toNat < r.x.toNat)))

/-- R225, R240, R242 to R245: a sprite under the screen position takes exactly six dots, in which no pixel leaves and the
tile fetcher stands still. They read its tile number and attributes from OAM and the two data bytes of its row from VRAM,
flipped as the attributes say, and merge its pixels, from the first that is on the screen, into the sprite FIFO: one is
appended where there was none, and one that is there is replaced by an opaque one if it is transparent, or, in CGB mode, of
a larger OAM index. (The spec marks as its own decisions D11 in R225, D15 in R225 and R240 and R242, D16 in R245; as general
knowledge in R240, R244; followed as the spec says, log 23.) -/
def Obligations.SpriteFetchTakesSixDots : Prop :=
  ∀ (s : State) (r : Sprite) (q : List Sprite), PpuInv s.ppu → s.ppu.lcdc.getLsbD 7 = true →
    s.ppu.lcdc.getLsbD 1 = true → s.ppu.mode = .pixelTransfer → s.ppu.spriteState = .idle →
    queueAt s.ppu.spritesAt s.ppu.lx = r :: q → s.ppu.lineTicks < 449 →
    ∃ t, execAll (List.replicate 6 .tickPpu) s = .next t ∧ t.ppu.spriteState = .idle ∧ t.ppu.curSprite = r ∧
      queueAt t.ppu.spritesAt s.ppu.lx = q ∧ t.ppu.lx = s.ppu.lx ∧ t.ppu.mode = .pixelTransfer ∧
      t.ppu.bgFifo = s.ppu.bgFifo ∧ t.ppu.fb = s.ppu.fb ∧ t.ppu.fetchState = s.ppu.fetchState ∧
      t.ppu.fetchX = s.ppu.fetchX ∧ t.ppu.lineTicks = s.ppu.lineTicks + 6 ∧
      ∀ n, n < 5 → ∃ u, execAll (List.replicate (n + 1) .tickPpu) s = .next u ∧ u.ppu.spriteState ≠ .idle ∧
      (let byte := fun j => if s.bus.blockedOam = true then s.cfg.blockedReadValue else s.ppuEnv.oam s.ppu j
       let tile := byte (4 * r.index + 2)
       let attr := byte (4 * r.index + 3)
       let height := if s.ppu.lcdc.getLsbD 2 = true then 16 else 8
       let line := (s.ppu.ly + 272 - r.y.toNat) % height
       let row := if attr.getLsbD 6 = true then height - 1 - line else line
       let addr := 16 * (if height = 16 then tile.toNat / 2 * 2 else tile.toNat) + 2 * row
       let data := fun (i : Nat) =>
         let v := s.ppuEnv.vram s.ppu (if s.cfg.hwMode = .cgb ∧ attr.getLsbD 3 = true then 1 else 0) i
         if attr.getLsbD 5 = true then v.reverse else v
       let pixel := fun (j : Nat) => (⟨BitVec.ofBool ((data (addr + 1)).getLsbD (7 - j)) ++ BitVec.ofBool ((data addr).getLsbD (7 - j)),
         if s.cfg.hwMode = .cgb then attr.extractLsb' 0 3 else if attr.getLsbD 4 = true then 1#3 else 0#3,
         attr.getLsbD 7, r.index⟩ : Pixel)
       t.ppu.sTile = tile ∧ t.ppu.sAttr = attr ∧ t.ppu.sAddr = addr ∧ t.ppu.sLow = data addr ∧ t.ppu.sHigh = data (addr + 1) ∧
       ∀ k, t.ppu.spFifo[k]? =
         if 8 ≤ k + (8 - r.x.toNat) then s.ppu.spFifo[k]?
         else match s.ppu.spFifo[k]? with
           | none => some (pixel (k + (8 - r.x.toNat)))
           | some e => some (
             if (pixel (k + (8 - r.x.toNat))).colorIndex ≠ 0#2 ∧
               (e.colorIndex = 0#2 ∨ (s.cfg.hwMode = .cgb ∧ r.index < e.spritePriority))
             then pixel (k + (8 - r.x.toNat)) else e))

/-! The OAM DMA engine. -/

/-- R281 to R283: the DMA register reads the byte last written; a write of any value starts a transfer of the page it names,
gives a held source segment back, and blocks the OAM segment. (The spec marks as its own decisions D25 in R283; as general
knowledge in R281; followed as the spec says, log 23.) -/
def Obligations.DmaReadAndWrite : Prop :=
  ∀ (s : State) (hb : Bool) (v : Byte), Reached s .dma 0 hb →
    exec (.rdDma hb) s = .next (s.setRdata (some s.dma.reg)) ∧
    ∃ t, exec (.wrDma hb v) s = .next t ∧ t = (s.setDma t.dma).setBus t.bus ∧
      t.dma.source.toNat = 256 * (if 0xF0 ≤ v.toNat then v.toNat - 0x20 else v.toNat) ∧
      t.dma = { reg := v, active := true, cycle := 0, source := t.dma.source, readIdx := 0, writeIdx := 0,
                pending := s.dma.pending, srcSeg := none } ∧
      t.bus = { s.bus with
        blockedOam := true
        blockedGeneral := if s.dma.active = true ∧ s.dma.srcSeg = some .general then false else s.bus.blockedGeneral }

/-- R284 to R287, R290: what a tick of the OAM DMA engine does at tick `c` of a transfer: the first read takes the source's
segment, every read and write is one access that does not honour blocks, the last write gives the segment back, and the
644th tick ends the transfer and unblocks OAM. (The spec marks as its own decisions D24 in R284 and R285; as its own
derivations in R290; followed as the spec says, log 23.) -/
def Obligations.TickDmaSchedule : Prop :=
  ∀ s : State,
    (s.dma.active = false → exec .tickDma s = .next s) ∧
    (s.dma.active = true → s.dma.cycle % 4 ≠ 0 → (s.dma.cycle % 4 ≠ 1 ∨ 640 ≤ s.dma.cycle) → s.dma.cycle < 643 →
      exec .tickDma s = .next (s.setDma { s.dma with cycle := s.dma.cycle + 1 })) ∧
    (s.dma.active = true → s.dma.cycle = 0 → exec .tickDma s = .next (s.setDma { s.dma with cycle := 1 })) ∧
    (s.dma.active = true → s.dma.cycle % 4 = 1 → s.dma.cycle < 640 →
      ∃ t b, exec .tickDma s = .next t ∧
        exec (.rd false (s.dma.source + BitVec.ofNat 16 s.dma.readIdx)) s = .next (s.setRdata (some b)) ∧
        (let takes := s.dma.cycle = 1 ∧ s.cfg.segmentOf s.dma.source = some .general
         t = (s.setDma { s.dma with
             cycle := s.dma.cycle + 1, readIdx := s.dma.readIdx + 1, pending := b,
             srcSeg := if takes then some .general else s.dma.srcSeg }).setBus
           { s.bus with lastDmaByte := b, blockedGeneral := if takes then true else s.bus.blockedGeneral })) ∧
    (s.dma.active = true → s.dma.cycle % 4 = 0 → 0 < s.dma.cycle → s.dma.cycle < 640 →
      ∃ t u, exec .tickDma s = .next t ∧
        exec (.wr false (s.cfg.base .oam + BitVec.ofNat 16 s.dma.writeIdx) s.dma.pending) s = .next u ∧
        t = u.setDma { u.dma with cycle := s.dma.cycle + 1, writeIdx := u.dma.writeIdx + 1 }) ∧
    (s.dma.active = true → s.dma.cycle = 640 → s.dma.srcSeg ≠ some .oam →
      ∃ t u, exec .tickDma s = .next t ∧
        exec (.wr false (s.cfg.base .oam + BitVec.ofNat 16 s.dma.writeIdx) s.dma.pending) s = .next u ∧
        t = (u.setDma { u.dma with cycle := 641, writeIdx := u.dma.writeIdx + 1, srcSeg := none }).setBus
          { u.bus with blockedGeneral := if u.dma.srcSeg = some .general then false else u.bus.blockedGeneral }) ∧
    (s.dma.active = true → s.dma.cycle = 643 → s.dma.srcSeg ≠ some .oam →
      exec .tickDma s = .next ((s.setDma { s.dma with active := false, cycle := 0, srcSeg := none }).setBus
        { s.bus with
          blockedOam := false
          blockedGeneral := if s.dma.srcSeg = some .general then false else s.bus.blockedGeneral }))

/-- R280, R287: with the default map and the PPU and the DMA engine registered, exactly 644 ticks after a write of the DMA
register OAM holds the 160 bytes that stand at the source address, and neither segment is blocked by the engine any more;
one tick before, OAM is still blocked. (The spec marks as its own decisions D24 in R280; followed as the spec says, log 23.)
-/
def Obligations.OamDmaCopiesThePage : Prop :=
  ∀ (s : State) (hb : Bool) (v : Byte), s.defaultMap → Reached s .dma 0 hb → .ppu ∈ s.bus.registered →
    ∃ u t, execAll (.wrDma hb v :: List.replicate 643 .tickDma) s = .next u ∧ u.bus.blockedOam = true ∧
      exec .tickDma u = .next t ∧ t.dma.active = false ∧ t.bus.blockedOam = false ∧ t.bus.blockedGeneral = false ∧
      ∀ k, k < 160 →
        exec (.rd false (BitVec.ofNat 16 (256 * (if 0xF0 ≤ v.toNat then v.toNat - 0x20 else v.toNat) + k))) s =
          .next (s.setRdata (some (t.ppuEnv.oam t.ppu k)))

/-- R74 (f): while the OAM DMA engine is active the OAM segment is blocked: every operation keeps it so, but a `BLOCK` that
some other agent issues to unblock it (log 25). (The spec marks as its own derivations in R74; followed as the spec says,
log 23.) -/
def Obligations.DmaActiveBlocksOam : Prop :=
  ∀ (s t : State) (i : Instr), Inv s → i ≠ .block .oam false → exec i s = .next t →
    (s.dma.active = true → s.bus.blockedOam = true) → (t.dma.active = true → t.bus.blockedOam = true)

/-! The HDMA engine. -/

/-- R303 to R306, R309, R311: HDMA1 to HDMA4 store the four address bytes and read as 0xFF. HDMA5: a write with bit 7 clear
cancels an HBlank transfer under way; any other write starts a transfer from the masked addresses, with the stall count of a
general-purpose one; a read returns the status, which in an active general-purpose transfer has bit 7 clear as R311 says
(30_encoding.md says otherwise of that bit: log 30). (The spec marks as its own decisions D26 in R303, D28 in R305; as
general knowledge in R303, R304, R306, R311; followed as the spec says, log 23.) -/
def Obligations.HdmaRegisters : Prop :=
  (∀ (s : State) (hb : Bool) (v : Byte),
     (Reached s .hdma1 0 hb → exec (.rdHdma1 hb) s = .next (s.setRdata (some 0xFF#8)) ∧
       exec (.wrHdma1 hb v) s = .next (s.setHdma { s.hdma with srcHi := v })) ∧
     (Reached s .hdma2 0 hb → exec (.rdHdma2 hb) s = .next (s.setRdata (some 0xFF#8)) ∧
       exec (.wrHdma2 hb v) s = .next (s.setHdma { s.hdma with srcLo := v })) ∧
     (Reached s .hdma3 0 hb → exec (.rdHdma3 hb) s = .next (s.setRdata (some 0xFF#8)) ∧
       exec (.wrHdma3 hb v) s = .next (s.setHdma { s.hdma with dstHi := v })) ∧
     (Reached s .hdma4 0 hb → exec (.rdHdma4 hb) s = .next (s.setRdata (some 0xFF#8)) ∧
       exec (.wrHdma4 hb v) s = .next (s.setHdma { s.hdma with dstLo := v }))) ∧
  (∀ (s : State) (hb : Bool) (v : Byte), Reached s .hdma5 0 hb →
     (let busy := s.hdma.state ≠ .idle ∧ s.hdma.state ≠ .terminated
      let left := BitVec.ofNat 7 ((s.hdma.remaining + 15) / 16) - 1#7
      let started := { s.hdma with
        src := (s.hdma.srcHi ++ s.hdma.srcLo) &&& 0xFFF0#16
        dst := s.cfg.base .vram + ((s.hdma.dstHi ++ s.hdma.dstLo) &&& 0x1FF0#16)
        remaining := (v.toNat % 128 + 1) * 16 }
      exec (.rdHdma5 hb) s = .next (s.setRdata (some (if s.hdma.state = .idle then 0xFF#8
        else if s.hdma.state = .terminated then 0x80#8 ||| left.setWidth 8 else left.setWidth 8))) ∧
      (busy → s.hdma.mode = .hblank → v.getLsbD 7 = false →
        exec (.wrHdma5 hb v) s = .next (s.setHdma { s.hdma with state := .terminated })) ∧
      (¬ (busy ∧ s.hdma.mode = .hblank) → v.getLsbD 7 = false →
        exec (.wrHdma5 hb v) s = .next (s.setHdma { started with
          mode := .gp, state := .read, stall := s.hdma.stall + 2 * started.remaining })) ∧
      (v.getLsbD 7 = true →
        exec (.wrHdma5 hb v) s = .next (s.setHdma { started with mode := .hblank, state := .waitHBlank }))))

/-- R312, R313: what a tick of the HDMA engine does in each of its states. (The spec marks as its own decisions D26 in R313,
D27 in R312; followed as the spec says, log 23.) -/
def Obligations.TickHdmaByState : Prop :=
  ∀ s : State,
    (s.hdma.state = .idle ∨ s.hdma.state = .terminated → exec .tickHdma s = .next s) ∧
    (s.hdma.state = .waitHBlank → exec .tickHdma s =
      .next (if s.ppu.mode = .hblank then s.setHdma { s.hdma with state := .read } else s)) ∧
    (s.hdma.state = .waitNotHBlank → exec .tickHdma s =
      .next (if s.ppu.mode = .hblank then s else s.setHdma { s.hdma with state := .waitHBlank })) ∧
    (s.hdma.state = .read → ∃ b, exec (.rd false s.hdma.src) s = .next (s.setRdata (some b)) ∧
      exec .tickHdma s = .next (s.setHdma { s.hdma with pending := b, src := s.hdma.src + 1#16, state := .write })) ∧
    (s.hdma.state = .write → ∃ u t, exec (.wr false s.hdma.dst s.hdma.pending) s = .next u ∧
      exec .tickHdma s = .next t ∧ t = u.setHdma t.hdma ∧
      t.hdma = { u.hdma with
        dst := s.cfg.base .vram + BitVec.ofNat 16 (((u.hdma.dst - s.cfg.base .vram).toNat + 1) % 0x2000)
        remaining := u.hdma.remaining - 1
        state := if u.hdma.remaining - 1 = 0 then .idle
          else if u.hdma.mode = .hblank ∧ (u.hdma.remaining - 1) % 16 = 0 then .waitNotHBlank else .read })

/-- R300, R314: one HBlank chunk: with the default map and the PPU registered, 33 ticks from the first that sees HBlank move
exactly the next 16 bytes to VRAM, in the bank of VBK, change no other byte of VRAM, and leave the engine waiting for HBlank
to end, or idle if those were the last. The source lies outside VRAM, the registers and OAM. (The spec marks as its own
derivations in R314; followed as the spec says, log 23.) -/
def Obligations.HBlankChunkMovesSixteenBytes : Prop :=
  ∀ s : State, s.defaultMap → Inv s → .ppu ∈ s.bus.registered → s.cfg.hwMode = .cgb →
    s.hdma.state = .waitHBlank → s.hdma.mode = .hblank → s.ppu.mode = .hblank → s.hdma.remaining % 16 = 0 →
    (s.hdma.src.toNat + 15 < 0x8000 ∨ (0xA000 ≤ s.hdma.src.toNat ∧ s.hdma.src.toNat + 15 < 0xFE00)) →
    ∃ t, execAll (List.replicate 33 .tickHdma) s = .next t ∧
      t.hdma.remaining + 16 = s.hdma.remaining ∧ t.hdma.src = s.hdma.src + 16#16 ∧
      t.hdma.state = (if s.hdma.remaining = 16 then .idle else .waitNotHBlank) ∧
      t = (s.setPpu { s.ppu with vram := t.ppu.vram }).setHdma t.hdma ∧
      (∀ k, k < 16 → exec (.rd false (s.hdma.src + BitVec.ofNat 16 k)) s = .next (s.setRdata (some
        (t.ppuEnv.vram t.ppu s.ppu.vbk.toNat (((s.hdma.dst - 0x8000#16).toNat + k) % 0x2000))))) ∧
      ∀ (b : BitVec 1) (o : BitVec 13),
        (b = s.ppu.vbk → ∀ k, k < 16 → o.toNat ≠ ((s.hdma.dst - 0x8000#16).toNat + k) % 0x2000) →
        t.ppuEnv.vram t.ppu b.toNat o.toNat = s.ppuEnv.vram s.ppu b.toNat o.toNat

/-- R300, R308, R319: a general-purpose transfer of the bytes that remain takes two ticks a byte, and then the engine is
idle: the stall count that a start adds is enough for all of it. (The spec marks as its own decisions D29 in R308; as its
own derivations in R308, R319; followed as the spec says, log 23.) -/
def Obligations.GeneralPurposeRunsOut : Prop :=
  ∀ s : State, s.defaultMap → Inv s → s.hdma.state = .read → s.hdma.mode = .gp →
    ∃ t, execAll (List.replicate (2 * s.hdma.remaining) .tickHdma) s = .next t ∧ t.hdma.state = .idle ∧
      t.hdma.remaining = 0 ∧ t.hdma.src = s.hdma.src + BitVec.ofNat 16 s.hdma.remaining ∧
      ∀ n, n < 2 * s.hdma.remaining → ∃ u, execAll (List.replicate n .tickHdma) s = .next u ∧ u.hdma.state ≠ .idle

/-! The APU. -/

/-- R152, R420, R422: what the APU's registers read: the stored bits, with the bits that cannot be read as one; NR52 shows
the power and the channels' enabled flags. (The spec marks as general knowledge in R420; followed as the spec says, log 23.)
-/
def Obligations.ApuRegisterReads : Prop :=
  ∀ (s : State) (hb : Bool),
    (Reached s .nr10 0 hb → exec (.rdNr10 hb) s = .next (s.setRdata (some (s.apu.nr10 ||| 0x80#8)))) ∧
    (Reached s .nr11 0 hb → exec (.rdNr11 hb) s = .next (s.setRdata (some (s.apu.nr11 ||| 0x3F#8)))) ∧
    (Reached s .nr12 0 hb → exec (.rdNr12 hb) s = .next (s.setRdata (some s.apu.nr12))) ∧
    (Reached s .nr13 0 hb → exec (.rdNr13 hb) s = .next (s.setRdata (some 0xFF#8))) ∧
    (Reached s .nr14 0 hb → exec (.rdNr14 hb) s = .next (s.setRdata (some (s.apu.nr14 ||| 0xBF#8)))) ∧
    (Reached s .nr21 0 hb → exec (.rdNr21 hb) s = .next (s.setRdata (some (s.apu.nr21 ||| 0x3F#8)))) ∧
    (Reached s .nr22 0 hb → exec (.rdNr22 hb) s = .next (s.setRdata (some s.apu.nr22))) ∧
    (Reached s .nr23 0 hb → exec (.rdNr23 hb) s = .next (s.setRdata (some 0xFF#8))) ∧
    (Reached s .nr24 0 hb → exec (.rdNr24 hb) s = .next (s.setRdata (some (s.apu.nr24 ||| 0xBF#8)))) ∧
    (Reached s .nr30 0 hb → exec (.rdNr30 hb) s = .next (s.setRdata (some (s.apu.nr30 ||| 0x7F#8)))) ∧
    (Reached s .nr31 0 hb → exec (.rdNr31 hb) s = .next (s.setRdata (some 0xFF#8))) ∧
    (Reached s .nr32 0 hb → exec (.rdNr32 hb) s = .next (s.setRdata (some (s.apu.nr32 ||| 0x9F#8)))) ∧
    (Reached s .nr33 0 hb → exec (.rdNr33 hb) s = .next (s.setRdata (some 0xFF#8))) ∧
    (Reached s .nr34 0 hb → exec (.rdNr34 hb) s = .next (s.setRdata (some (s.apu.nr34 ||| 0xBF#8)))) ∧
    (Reached s .nr41 0 hb → exec (.rdNr41 hb) s = .next (s.setRdata (some 0xFF#8))) ∧
    (Reached s .nr42 0 hb → exec (.rdNr42 hb) s = .next (s.setRdata (some s.apu.nr42))) ∧
    (Reached s .nr43 0 hb → exec (.rdNr43 hb) s = .next (s.setRdata (some s.apu.nr43))) ∧
    (Reached s .nr44 0 hb → exec (.rdNr44 hb) s = .next (s.setRdata (some (s.apu.nr44 ||| 0xBF#8)))) ∧
    (Reached s .nr50 0 hb → exec (.rdNr50 hb) s = .next (s.setRdata (some s.apu.nr50))) ∧
    (Reached s .nr51 0 hb → exec (.rdNr51 hb) s = .next (s.setRdata (some s.apu.nr51))) ∧
    (Reached s .nr52 0 hb → exec (.rdNr52 hb) s = .next (s.setRdata (some (
      (if s.apu.power = true then 0x80#8 else 0x00#8) ||| 0x70#8
      ||| (if s.apu.c4.enabled = true then 0x08#8 else 0x00#8) ||| (if s.apu.c3.enabled = true then 0x04#8 else 0x00#8)
      ||| (if s.apu.c2.enabled = true then 0x02#8 else 0x00#8) ||| (if s.apu.c1.enabled = true then 0x01#8 else 0x00#8)))))

/-- R366 to R370, R383, R421, R423: while the power is off, a write of any register from NR10 to NR51 is ignored. (The spec
marks as its own decisions D35 in R370, D36 in R367, D38 in R368, D41 in R423; as general knowledge in R366, R367, R368,
R423; followed as the spec says, log 23.) -/
def Obligations.ApuWritesIgnoredWithPowerOff : Prop :=
  ∀ (s : State) (hb : Bool) (v : Byte) (p : Place), s.apu.power = false → Reached s p 0 hb →
    p ∈ [Place.nr10, .nr11, .nr12, .nr13, .nr14, .nr21, .nr22, .nr23, .nr24, .nr30, .nr31, .nr32, .nr33, .nr34, .nr41,
      .nr42, .nr43, .nr44, .nr50, .nr51] →
    exec (writeInstr p hb (placeAddr p 0) v) s = .next s

/-- R369, R383, R421: the writes that only store, and only with the power on: NR10 without bit 7, NR13, NR23, NR32, NR33,
NR43, NR50, NR51. -/
def Obligations.ApuPlainWrites : Prop :=
  ∀ (s : State) (hb : Bool) (v : Byte),
    (Reached s .nr10 0 hb → exec (.wrNr10 hb v) s =
      .next (if s.apu.power = true then s.setApu { s.apu with nr10 := v &&& 0x7F#8 } else s)) ∧
    (Reached s .nr13 0 hb → exec (.wrNr13 hb v) s =
      .next (if s.apu.power = true then s.setApu { s.apu with nr13 := v } else s)) ∧
    (Reached s .nr23 0 hb → exec (.wrNr23 hb v) s =
      .next (if s.apu.power = true then s.setApu { s.apu with nr23 := v } else s)) ∧
    (Reached s .nr32 0 hb → exec (.wrNr32 hb v) s =
      .next (if s.apu.power = true then s.setApu { s.apu with nr32 := v } else s)) ∧
    (Reached s .nr33 0 hb → exec (.wrNr33 hb v) s =
      .next (if s.apu.power = true then s.setApu { s.apu with nr33 := v } else s)) ∧
    (Reached s .nr43 0 hb → exec (.wrNr43 hb v) s =
      .next (if s.apu.power = true then s.setApu { s.apu with nr43 := v } else s)) ∧
    (Reached s .nr50 0 hb → exec (.wrNr50 hb v) s =
      .next (if s.apu.power = true then s.setApu { s.apu with nr50 := v } else s)) ∧
    (Reached s .nr51 0 hb → exec (.wrNr51 hb v) s =
      .next (if s.apu.power = true then s.setApu { s.apu with nr51 := v } else s))

/-- R366, R368, R370: with the power on, a write of NR11, NR21, NR31 or NR41 stores the byte and loads the length counter;
one of NR12, NR22, NR30 or NR42 stores the byte, and disables the channel if it turns the DAC off (bits 7:3 all zero, of
NR30 bit 7 zero); one of NR14, NR24, NR34 or NR44 with bit 7 clear stores bits 6 and 2:0 and the length enable; nothing else
changes. (The spec marks as its own decisions D35 in R370, D38 in R368; as general knowledge in R366, R368; followed as the
spec says, log 23.) -/
def Obligations.ChannelRegisterWrites : Prop :=
  (∀ (s : State) (hb : Bool) (v : Byte), s.apu.power = true →
     (Reached s .nr11 0 hb → exec (.wrNr11 hb v) s = .next (s.setApu { s.apu with
       nr11 := v, c1 := { s.apu.c1 with length := 64 - v.toNat % 64 } })) ∧
     (Reached s .nr21 0 hb → exec (.wrNr21 hb v) s = .next (s.setApu { s.apu with
       nr21 := v, c2 := { s.apu.c2 with length := 64 - v.toNat % 64 } })) ∧
     (Reached s .nr31 0 hb → exec (.wrNr31 hb v) s = .next (s.setApu { s.apu with
       nr31 := v, c3 := { s.apu.c3 with length := 256 - v.toNat } })) ∧
     (Reached s .nr41 0 hb → exec (.wrNr41 hb v) s = .next (s.setApu { s.apu with
       nr41 := v, c4 := { s.apu.c4 with length := 64 - v.toNat % 64 } }))) ∧
  (∀ (s : State) (hb : Bool) (v : Byte), s.apu.power = true →
     (Reached s .nr12 0 hb → exec (.wrNr12 hb v) s = .next (s.setApu { s.apu with
       nr12 := v, c1 := { s.apu.c1 with enabled := s.apu.c1.enabled && decide (8 ≤ v.toNat) } })) ∧
     (Reached s .nr22 0 hb → exec (.wrNr22 hb v) s = .next (s.setApu { s.apu with
       nr22 := v, c2 := { s.apu.c2 with enabled := s.apu.c2.enabled && decide (8 ≤ v.toNat) } })) ∧
     (Reached s .nr30 0 hb → exec (.wrNr30 hb v) s = .next (s.setApu { s.apu with
       nr30 := v, c3 := { s.apu.c3 with enabled := s.apu.c3.enabled && decide (128 ≤ v.toNat) } })) ∧
     (Reached s .nr42 0 hb → exec (.wrNr42 hb v) s = .next (s.setApu { s.apu with
       nr42 := v, c4 := { s.apu.c4 with enabled := s.apu.c4.enabled && decide (8 ≤ v.toNat) } }))) ∧
  (∀ (s : State) (hb : Bool) (v : Byte), s.apu.power = true → v.getLsbD 7 = false →
     (Reached s .nr14 0 hb → exec (.wrNr14 hb v) s = .next (s.setApu { s.apu with
       nr14 := v &&& 0x47#8, c1 := { s.apu.c1 with lengthEn := v.getLsbD 6 } })) ∧
     (Reached s .nr24 0 hb → exec (.wrNr24 hb v) s = .next (s.setApu { s.apu with
       nr24 := v &&& 0x47#8, c2 := { s.apu.c2 with lengthEn := v.getLsbD 6 } })) ∧
     (Reached s .nr34 0 hb → exec (.wrNr34 hb v) s = .next (s.setApu { s.apu with
       nr34 := v &&& 0x47#8, c3 := { s.apu.c3 with lengthEn := v.getLsbD 6 } })) ∧
     (Reached s .nr44 0 hb → exec (.wrNr44 hb v) s = .next (s.setApu { s.apu with
       nr44 := v &&& 0x47#8, c4 := { s.apu.c4 with lengthEn := v.getLsbD 6 } })))

/-- R370 to R372, R375, R380, R395, R399: with the power on, a trigger reloads a zero length (one less on a length-clocking
step of an enabled length), the envelope and, on channel 1, the sweep, restarts the channel's generator, and leaves the
channel enabled exactly if its DAC is on and, on channel 1, the first sweep calculation does not overflow; nothing else
changes: of a supplied generator the channel's own state only. At frequency 0 the default generators' timers are reloaded to
8192 and 4096, as R399 says, outside the ranges of R67 (log 14). (The spec marks as its own decisions D35 in R370, D37 in
R380; as general knowledge in R67, R371, R375, R380, R399; followed as the spec says, log 23.) -/
def Obligations.Triggers : Prop :=
  ∀ (s : State) (hb : Bool) (v : Byte), s.apu.power = true → v.getLsbD 7 = true →
    (let onStep := v.getLsbD 6 = true ∧ (s.apu.fsLast = some 0 ∨ s.apu.fsLast = some 2 ∨ s.apu.fsLast = some 4 ∨
       s.apu.fsLast = some 6)
     let orEight := fun (n : Nat) => if n = 0 then 8 else n
     let length := fun (full old : Nat) => if old = 0 then (if onStep then full - 1 else full) else old
     let freq := fun (low : Byte) => v.toNat % 8 * 256 + low.toNat
     let standard := s.cfg.gen = .standard
     let tokens := fun (k : GenTokens) => if standard then s.apu.supplied else k
     let envelope := fun (r : Byte) => (⟨r.extractLsb' 4 4, orEight (r.toNat % 8)⟩ : Envelope)
     (Reached s .nr14 0 hb →
       let shift := s.apu.nr10.toNat % 8
       let period := s.apu.nr10.toNat / 16 % 8
       let overflows := shift ≠ 0 ∧ s.apu.nr10.getLsbD 3 = false ∧ 2047 < freq s.apu.nr13 + freq s.apu.nr13 / 2 ^ shift
       ∃ t, exec (.wrNr14 hb v) s = .next t ∧
         (t.apu.c1.enabled = true ↔ 8 ≤ s.apu.nr12.toNat ∧ ¬ overflows) ∧
         (t.apu.sweep.on = true ↔ period ≠ 0 ∨ shift ≠ 0) ∧
         t = s.setApu { s.apu with
           nr14 := v &&& 0x47#8
           c1 := ⟨t.apu.c1.enabled, length 64 s.apu.c1.length, v.getLsbD 6⟩
           e1 := envelope s.apu.nr12
           sweep := ⟨BitVec.ofNat 11 (freq s.apu.nr13), orEight period, t.apu.sweep.on⟩
           supplied := tokens { s.apu.supplied with tok1 := t.apu.supplied.tok1 }
           g1 := if standard then { s.apu.g1 with ftimer := (2048 - freq s.apu.nr13) * 4 } else s.apu.g1 }) ∧
     (Reached s .nr24 0 hb → ∃ t, exec (.wrNr24 hb v) s = .next t ∧
       (t.apu.c2.enabled = true ↔ 8 ≤ s.apu.nr22.toNat) ∧
       t = s.setApu { s.apu with
         nr24 := v &&& 0x47#8
         c2 := ⟨t.apu.c2.enabled, length 64 s.apu.c2.length, v.getLsbD 6⟩
         e2 := envelope s.apu.nr22
         supplied := tokens { s.apu.supplied with tok2 := t.apu.supplied.tok2 }
         g2 := if standard then { s.apu.g2 with ftimer := (2048 - freq s.apu.nr23) * 4 } else s.apu.g2 }) ∧
     (Reached s .nr34 0 hb → ∃ t, exec (.wrNr34 hb v) s = .next t ∧
       (t.apu.c3.enabled = true ↔ s.apu.nr30.getLsbD 7 = true) ∧
       t = s.setApu { s.apu with
         nr34 := v &&& 0x47#8
         c3 := ⟨t.apu.c3.enabled, length 256 s.apu.c3.length, v.getLsbD 6⟩
         supplied := tokens { s.apu.supplied with tok3 := t.apu.supplied.tok3 }
         g3 := if standard then { s.apu.g3 with ftimer := (2048 - freq s.apu.nr33) * 2, wavePos := 0#5 } else s.apu.g3 }) ∧
     (Reached s .nr44 0 hb → ∃ t, exec (.wrNr44 hb v) s = .next t ∧
       (t.apu.c4.enabled = true ↔ 8 ≤ s.apu.nr42.toNat) ∧
       t = s.setApu { s.apu with
         nr44 := v &&& 0x47#8
         c4 := ⟨t.apu.c4.enabled, length 64 s.apu.c4.length, v.getLsbD 6⟩
         e4 := envelope s.apu.nr42
         supplied := tokens { s.apu.supplied with tok4 := t.apu.supplied.tok4 }
         g4 := if standard then
           ⟨[8, 16, 32, 48, 64, 80, 96, 112].getD (s.apu.nr43.toNat % 8) 0 * 2 ^ (s.apu.nr43.toNat / 16), 0x7FFF#15⟩
           else s.apu.g4 }))

/-- R423, R424: NR52 bit 7 switches the power: off clears every register and every channel's state and keeps the wave table,
the generators, the frame sequencer and the sample counter; on, or no change, does nothing else. (The spec marks as its own
decisions D41 in R423, D49 in R424; as general knowledge in R423; followed as the spec says, log 23.) -/
def Obligations.PowerSwitch : Prop :=
  ∀ (s : State) (hb : Bool) (v : Byte), Reached s .nr52 0 hb →
    (s.apu.power = true → v.getLsbD 7 = false → ∃ t, exec (.wrNr52 hb v) s = .next t ∧ t = s.setApu t.apu ∧
      (∀ r ∈ t.apu.registers, r = 0#8) ∧ (∀ c, t.apu.chan c = ⟨false, 0, false⟩) ∧
      t.apu.e1 = ⟨0#4, 0⟩ ∧ t.apu.e2 = ⟨0#4, 0⟩ ∧ t.apu.e4 = ⟨0#4, 0⟩ ∧ t.apu.sweep = ⟨0#11, 0, false⟩ ∧
      t.apu.power = false ∧ t.apu.wave = s.apu.wave ∧ t.apu.g1 = s.apu.g1 ∧ t.apu.g2 = s.apu.g2 ∧ t.apu.g3 = s.apu.g3 ∧
      t.apu.g4 = s.apu.g4 ∧ t.apu.supplied = s.apu.supplied ∧ t.apu.fsCounter = s.apu.fsCounter ∧
      t.apu.fsStep = s.apu.fsStep ∧ t.apu.fsLast = s.apu.fsLast ∧ t.apu.sampleCtr = s.apu.sampleCtr) ∧
    (s.apu.power = false → v.getLsbD 7 = true → exec (.wrNr52 hb v) s = .next (s.setApu { s.apu with power := true })) ∧
    (s.apu.power = v.getLsbD 7 → exec (.wrNr52 hb v) s = .next s)

/-- R424: the wave table reads and stores at any time, whatever the power and the channel are; a write changes its byte and
no other. (The spec marks as its own decisions D49 in R424; followed as the spec says, log 23.) -/
def Obligations.WaveReadAndWrite : Prop :=
  ∀ (s : State) (hb : Bool) (i : BitVec 4) (v : Byte), Reached s .wave i.toNat hb →
    exec (.rdWave hb i) s = .next (s.setRdata (some (s.apu.readWave s.draws i.toNat))) ∧
    ∃ t, exec (.wrWave hb i v) s = .next t ∧ t = s.setApu { s.apu with wave := t.apu.wave } ∧
      ∀ j, t.apu.readWave t.draws j = if j = i.toNat then v else s.apu.readWave s.draws j

/-- R360 to R364, R367: the frame sequencer and what it clocks: nothing but on every 8192nd tick; there the enabled lengths
on steps 0, 2, 4 and 6, and the envelopes on step 7. No tick changes a register but NR13 and NR14, and those only on steps 2
and 6; what the sweep does to them and to channel 1 there is `SweepClocked`. (The spec marks as its own decisions D34 in
R361 and R362, D35 in R364, D36 in R367; as general knowledge in R367; followed as the spec says, log 23.) -/
def Obligations.FrameSequencer : Prop :=
  ∀ s : State, s.apu.fsStep < 8 → ∃ t, exec .tickApu s = .next t ∧ t = (s.setApu t.apu).setTrace t.trace ∧
    t.apu.fsCounter = (s.apu.fsCounter + 1) % 8192 ∧ t.apu.power = s.apu.power ∧ t.apu.wave = s.apu.wave ∧
    t.apu.registers = { s.apu with nr13 := t.apu.nr13, nr14 := t.apu.nr14 }.registers ∧
    (let due := (s.apu.fsCounter + 1) % 8192 = 0
     let lengths := due ∧ s.apu.fsStep ∈ [0, 2, 4, 6]
     let clocked := fun (k : Chan) =>
       if lengths ∧ k.lengthEn = true ∧ 0 < k.length then
         (⟨k.enabled && decide (k.length ≠ 1), k.length - 1, k.lengthEn⟩ : Chan) else k
     let aged := fun (r : Byte) (e : Envelope) =>
       if due ∧ s.apu.fsStep = 7 then
         (if e.timer ≤ 1 then
           (⟨if r.toNat % 8 = 0 then e.vol
              else if r.getLsbD 3 = true then (if e.vol = 15#4 then 15#4 else e.vol + 1#4)
              else (if e.vol = 0#4 then 0#4 else e.vol - 1#4),
            if r.toNat % 8 = 0 then 8 else r.toNat % 8⟩ : Envelope)
          else { e with timer := e.timer - 1 })
       else e
     (¬ due → t.apu.fsStep = s.apu.fsStep ∧ t.apu.fsLast = s.apu.fsLast ∧ t.apu.registers = s.apu.registers ∧
       t.apu.sweep = s.apu.sweep) ∧
     (due → t.apu.fsStep = (s.apu.fsStep + 1) % 8 ∧ t.apu.fsLast = some s.apu.fsStep) ∧
     t.apu.c2 = clocked s.apu.c2 ∧ t.apu.c3 = clocked s.apu.c3 ∧ t.apu.c4 = clocked s.apu.c4 ∧
     t.apu.c1.length = (clocked s.apu.c1).length ∧ t.apu.c1.lengthEn = s.apu.c1.lengthEn ∧
     (¬ (due ∧ s.apu.fsStep ∈ [2, 6]) → t.apu.c1 = clocked s.apu.c1 ∧ t.apu.registers = s.apu.registers ∧
       t.apu.sweep = s.apu.sweep) ∧
     t.apu.e1 = aged s.apu.nr12 s.apu.e1 ∧ t.apu.e2 = aged s.apu.nr22 s.apu.e2 ∧ t.apu.e4 = aged s.apu.nr42 s.apu.e4)

/-- R362, R375, R381: the sweep clock of steps 2 and 6: the timer counts down and is reloaded; when it runs out with the
sweep on and a period, an overflowing frequency disables channel 1 and is not stored, and another is written back to the
shadow, NR13 and NR14 if the shift is not zero; with the optional second check, a stored frequency whose own next one
overflows disables channel 1 too. (The spec marks as its own decisions D34 in R362, D37 in R381; as general knowledge in
R375; followed as the spec says, log 23.) -/
def Obligations.SweepClocked : Prop :=
  ∀ s : State, (s.apu.fsCounter + 1) % 8192 = 0 → s.apu.fsStep ∈ [2, 6] →
    ∃ t, exec .tickApu s = .next t ∧
      (let shift := s.apu.nr10.toNat % 8
       let period := s.apu.nr10.toNat / 16 % 8
       let shadow := s.apu.sweep.shadow.toNat
       let next := if s.apu.nr10.getLsbD 3 = true then shadow - shadow / 2 ^ shift else shadow + shadow / 2 ^ shift
       let again := if s.apu.nr10.getLsbD 3 = true then next - next / 2 ^ shift else next + next / 2 ^ shift
       let expires := s.apu.c1.lengthEn = true ∧ s.apu.c1.length = 1
       let computes := s.apu.sweep.timer ≤ 1 ∧ s.apu.sweep.on = true ∧ period ≠ 0
       t.apu.sweep.timer = (if s.apu.sweep.timer ≤ 1 then (if period = 0 then 8 else period) else s.apu.sweep.timer - 1) ∧
       t.apu.sweep.on = s.apu.sweep.on ∧
       (computes → 2047 < next → t.apu.c1.enabled = false ∧ t.apu.sweep.shadow = s.apu.sweep.shadow ∧
         t.apu.nr13 = s.apu.nr13 ∧ t.apu.nr14 = s.apu.nr14) ∧
       (computes → next ≤ 2047 → shift ≠ 0 → t.apu.sweep.shadow.toNat = next ∧ t.apu.nr13.toNat = next % 256 ∧
         t.apu.nr14.toNat = s.apu.nr14.toNat / 8 * 8 + next / 256) ∧
       (¬ computes ∨ (next ≤ 2047 ∧ shift = 0) → t.apu.sweep.shadow = s.apu.sweep.shadow ∧
         t.apu.nr13 = s.apu.nr13 ∧ t.apu.nr14 = s.apu.nr14) ∧
       (computes → next ≤ 2047 → shift ≠ 0 → s.cfg.sweepSecondCheck = true → 2047 < again → t.apu.c1.enabled = false) ∧
       (¬ (computes ∧ (2047 < next ∨ (shift ≠ 0 ∧ s.cfg.sweepSecondCheck = true ∧ 2047 < again))) → t.apu.c1.enabled = (s.apu.c1.enabled && !decide expires)))

/-- R361, R396 to R398: with the default generators each tick advances the four generators: square waves by their frequency
(channel 1's as the tick's sweep clock left it), the wave channel through its table, the noise channel's shift register.
Their samples: the duty pattern's bit at the volume, the latched table entry shifted by the level, the shift register's bit
0 inverted at the volume. At frequency 0 the timers are reloaded to 8192 and 4096, as R396 and R397 say, outside the ranges
of R67 (log 14). With supplied generators a tick leaves the default ones alone: each supplied generator steps once, as a
function of its channel's registers and volume, as the tick's clocks left them, the wave table and its own state, and writes
that state only (R395). (The spec marks as its own decisions D34 in R361; as general knowledge in R67, R396, R397, R398;
followed as the spec says, log 23.) -/
def Obligations.DefaultGenerators : Prop :=
  (∀ s : State, s.cfg.gen = .standard →
       ∃ t, exec .tickApu s = .next t ∧ t.apu.supplied = s.apu.supplied ∧
         t.apu.g1 = (if s.apu.g1.ftimer ≤ 1 then
           ⟨(2048 - (t.apu.nr14.toNat % 8 * 256 + t.apu.nr13.toNat)) * 4, s.apu.g1.dutyPos + 1#3⟩
           else { s.apu.g1 with ftimer := s.apu.g1.ftimer - 1 }) ∧
         t.apu.g2 = (if s.apu.g2.ftimer ≤ 1 then
           ⟨(2048 - (s.apu.nr24.toNat % 8 * 256 + s.apu.nr23.toNat)) * 4, s.apu.g2.dutyPos + 1#3⟩
           else { s.apu.g2 with ftimer := s.apu.g2.ftimer - 1 }) ∧
         t.apu.g3 = (if s.apu.g3.ftimer ≤ 1 then
           ⟨(2048 - (s.apu.nr34.toNat % 8 * 256 + s.apu.nr33.toNat)) * 2, s.apu.g3.wavePos + 1#5,
             (let b := s.apu.readWave s.draws ((s.apu.g3.wavePos + 1#5).toNat / 2)
              if (s.apu.g3.wavePos + 1#5).toNat % 2 = 0 then b.extractLsb' 4 4 else b.extractLsb' 0 4)⟩
           else { s.apu.g3 with ftimer := s.apu.g3.ftimer - 1 }) ∧
         (1 < s.apu.g4.ftimer → t.apu.g4 = { s.apu.g4 with ftimer := s.apu.g4.ftimer - 1 }) ∧
         (s.apu.g4.ftimer ≤ 1 →
           t.apu.g4.ftimer = [8, 16, 32, 48, 64, 80, 96, 112].getD (s.apu.nr43.toNat % 8) 0 * 2 ^ (s.apu.nr43.toNat / 16) ∧
           ∀ k, k < 15 → t.apu.g4.lfsr.getLsbD k =
             if k = 14 ∨ (k = 6 ∧ s.apu.nr43.getLsbD 3 = true) then
               (s.apu.g4.lfsr.getLsbD 0 != s.apu.g4.lfsr.getLsbD 1) else s.apu.g4.lfsr.getLsbD (k + 1))) ∧
  (∀ s : State, s.cfg.gen = .supplied →
       ∃ t, exec .tickApu s = .next t ∧ t.apu.g1 = s.apu.g1 ∧ t.apu.g2 = s.apu.g2 ∧ t.apu.g3 = s.apu.g3 ∧
         t.apu.g4 = s.apu.g4 ∧
         ∀ c, t.apu.supplied.token c =
           Config.genStep c (t.apu.regs c) (t.apu.vol c) ((List.range 16).map (s.apu.readWave s.draws))
             (s.apu.supplied.token c)) ∧
  (∀ (a : Apu) (draw : Nat),
    (let square := fun (r : Byte) (g : SquareGen) (e : Envelope) =>
       if ([0b00000001#8, 0b10000001#8, 0b10000111#8, 0b01111110#8].getD (r.toNat / 64) 0#8).getLsbD g.dutyPos.toNat = true
       then e.vol else 0#4
     a.genSample .standard draw .ch1 = square a.nr11 a.g1 a.e1 ∧
     a.genSample .standard draw .ch2 = square a.nr21 a.g2 a.e2 ∧
     (a.genSample .standard draw .ch3).toNat = a.g3.waveLatch.toNat / 2 ^ ([4, 0, 1, 2].getD (a.nr32.toNat / 32 % 4) 0) ∧
     a.genSample .standard draw .ch4 = if a.g4.lfsr.getLsbD 0 = true then 0#4 else a.e4.vol))

/-- R410 to R412: a tick counts the sample counter down; when it runs out it is reloaded and one sample pair is put out,
each side the sum of its routed channels' amplitudes times the side's master volume, over 4, where a muted or disabled
channel is 0. (That a counter of 0, which no run reaches and for which R410 gives no value, counts as 1 is the model's
choice, log 26. The default generators' samples are stated by DefaultGenerators.) (The spec marks as its own decisions D40
in R410 and R412; as its own derivations in R411; followed as the spec says, log 23.) -/
def Obligations.SampleOutput : Prop :=
  ∀ s : State, ∃ t, exec .tickApu s = .next t ∧
    (1 < s.apu.sampleCtr → t.apu.sampleCtr = s.apu.sampleCtr - 1 ∧ t.trace = s.trace) ∧
    (s.apu.sampleCtr ≤ 1 → t.apu.sampleCtr = s.cfg.samplePeriod.val ∧
      (let silent := fun (c : Channel) => muted s.cfg.mute c = true ∨ (t.apu.chan c).enabled = false
       let amp := fun (c : Channel) => s.cfg.dac.getD
         (if silent c then 0 else (t.apu.genSample s.cfg.gen s.draws c).toNat) 0
       let side := fun (b1 b2 b3 b4 : Bool) =>
         (if b1 = true then amp .ch1 else 0) + (if b2 = true then amp .ch2 else 0) +
         (if b3 = true then amp .ch3 else 0) + (if b4 = true then amp .ch4 else 0)
       t.trace = s.trace ++ [.sample
         (s.cfg.vol.getD (t.apu.nr50.toNat / 16 % 8) 0 *
           side (t.apu.nr51.getLsbD 4) (t.apu.nr51.getLsbD 5) (t.apu.nr51.getLsbD 6) (t.apu.nr51.getLsbD 7) / 4)
         (s.cfg.vol.getD (t.apu.nr50.toNat % 8) 0 *
           side (t.apu.nr51.getLsbD 0) (t.apu.nr51.getLsbD 1) (t.apu.nr51.getLsbD 2) (t.apu.nr51.getLsbD 3) / 4)]))

/-- R412: with the default `DAC` and `VOL`, both values of every sample that a tick puts out lie between 0 and 1. (The spec
marks as its own decisions D40 in R412; followed as the spec says, log 23.) -/
def Obligations.SamplesInUnitRange : Prop :=
  ∀ (s t : State), s.cfg.dac = Config.default.dac → s.cfg.vol = Config.default.vol → exec .tickApu s = .next t →
    ∀ l r, t.trace = s.trace ++ [.sample l r] → 0 ≤ l ∧ l ≤ 1 ∧ 0 ≤ r ∧ r ≤ 1

/-! The tick fan-out. -/

/-- R440 to R442, R448: `IOTICK` is made of device ticks. Cycle by cycle: Timer, Serial, DMA, then PPU, APU, HDMA, in double
speed on every second cycle by `half_phase`; or, with the optional interleave, device by device over the whole group. It
always answers a next state. (The spec marks as its own decisions D10 in R441 and R442; followed as the spec says, log 23.)
-/
def Obligations.IotickExpands : Prop :=
  (∀ (s : State) (n : BitVec 16), (∃ t, exec (.iotick n) s = .next t) ∧ ∃ t, exec (.iotick2 n) s = .next t) ∧
  (∀ s : State, exec (.iotick 0#16) s = .next s ∧ exec (.iotick2 0#16) s = .next s) ∧
  (∀ (s : State) (n : BitVec 16), s.cfg.tickInterleave = .perCycle → n ≠ 0#16 →
    ∃ u, execAll [.tickTimer, .tickSerial, .tickDma] s = .next u ∧
      (∃ w, execAll [.tickPpu, .tickApu, .tickHdma] (u.setHalfPhase false) = .next w ∧
        exec (.iotick n) s = exec (.iotick (n - 1#16)) w ∧
        (s.halfPhase = true → exec (.iotick2 n) s = exec (.iotick2 (n - 1#16)) w)) ∧
      (s.halfPhase = false → exec (.iotick2 n) s = exec (.iotick2 (n - 1#16)) (u.setHalfPhase true))) ∧
  (∀ (s : State) (n : BitVec 16), s.cfg.tickInterleave = .perGroup → n ≠ 0#16 →
    ∃ u, execAll (List.replicate n.toNat .tickTimer ++ List.replicate n.toNat .tickSerial ++
        List.replicate n.toNat .tickDma) s = .next u ∧
      (let slow := fun (k : Nat) => List.replicate k Instr.tickPpu ++ List.replicate k .tickApu ++ List.replicate k .tickHdma
       let odd := n.toNat + (if s.halfPhase = true then 1 else 0)
       exec (.iotick n) s = execAll (slow n.toNat) (u.setHalfPhase false) ∧
       exec (.iotick2 n) s = execAll (slow (odd / 2)) (u.setHalfPhase (decide (odd % 2 = 1)))))

/-- R447: a tick of the serial device does nothing if none is attached; one that is changes its own state only, and may
request interrupt 3. (The spec marks as its own decisions D44 in R447; followed as the spec says, log 23.) -/
def Obligations.TickSerialEffect : Prop :=
  ∀ s : State,
    (s.cfg.serialAttached = false → exec .tickSerial s = .next s) ∧
    ∃ t, exec .tickSerial s = .next t ∧ t = (s.setExt { s.ext with serialToken := t.ext.serialToken }).setCpu t.cpu ∧
      (t.cpu = s.cpu ∨ t.cpu = { s.cpu with ifr := s.cpu.ifr ||| 0x08#8 })

/-! Interrupts and the CPU's side. -/

/-- R463 to R465: with the default map, no operation clears a bit of IF but a bus write of IF itself; bits 4 to 7 are set by
none; the APU, the OAM DMA and the HDMA engine raise no interrupt. (The spec marks as its own decisions D42 in R463; as
general knowledge in R463; followed as the spec says, log 23.) -/
def Obligations.InterruptRequestsOnlySet : Prop :=
  ∀ (s t : State) (i : Instr), s.defaultMap → Inv s → exec i s = .next t →
    (∀ hb v, i ≠ .wr hb 0xFF0F#16 v) →
    (∀ k, s.cpu.ifr.getLsbD k = true → t.cpu.ifr.getLsbD k = true) ∧
    (∀ k, 4 ≤ k → t.cpu.ifr.getLsbD k = s.cpu.ifr.getLsbD k) ∧
    (i = .tickApu ∨ i = .tickDma ∨ i = .tickHdma → t.cpu = s.cpu)

/-- R445, R467, R470 to R473, R476: with the master enable set and an enabled interrupt pending, the CPU's dispatch, alone
or as its `Tick()`, wakes a halted or stopped CPU, an armed speed switch taking effect when STOP exits; it pushes the PC,
high byte first, clears the lowest pending enabled bit and the master enable, sets the PC to that interrupt's vector, and
feeds 20 cycles to the devices in the speed mode that then holds; the CPU runs on, once a stall that the pushes have caused
is run off (R445; one that is owed before is ExternalActs'). How one input of the model stands for the dispatch is its own
(log 21), and that the switch toggles the mode (log 10). (The spec marks as general knowledge in R472, R473, R476; followed
as the spec says, log 23.) -/
def Obligations.InterruptDispatch : Prop :=
  ∀ (s : State) (x : Input) (rest : List Input) (n : Nat), s.fault = none → s.pending = x :: rest →
    (x = .cpuService ∨ ∃ acts cycles idle, x = .cpuTick acts cycles idle) → s.cpu.ime = true →
    s.cpu.run ≠ .servicingInterrupt → s.hdma.stall = 0 → n < 5 → s.cpu.ie.getLsbD n = true → s.cpu.ifr.getLsbD n = true →
    (∀ m, m < n → ¬ (s.cpu.ie.getLsbD m = true ∧ s.cpu.ifr.getLsbD m = true)) →
    (let speed := if s.cpu.run = .stopped then (s.cpu.doubleSpeed != s.cpu.switchArmed) else s.cpu.doubleSpeed
     let armed := if s.cpu.run = .stopped then false else s.cpu.switchArmed
     ∃ u w v t, execAll [.wr true (s.cpu.sp - 1#16) (s.cpu.pc.extractLsb' 8 8), .wr true (s.cpu.sp - 2#16) (s.cpu.pc.extractLsb' 0 8)]
         ((s.setPending rest).setCpu { s.cpu with run := .servicingInterrupt, doubleSpeed := speed, switchArmed := armed }) =
           .next u ∧
       exec (if speed = true then .iotick2 20#16 else .iotick 20#16) (u.setCpu { u.cpu with
         sp := s.cpu.sp - 2#16, pc := BitVec.ofNat 16 (0x40 + 8 * n), ime := false,
         ifr := u.cpu.ifr &&& ~~~(1#8 <<< n) }) = .next w ∧
       v = w.setCpu { w.cpu with run := .running } ∧ step s = step (v.setPending (.takeStall :: rest)) ∧
       (v.hdma.stall = 0 → step s = .next v) ∧ step s = .next t ∧
       t.cpu.pc.toNat = 0x40 + 8 * n ∧ t.cpu.sp = s.cpu.sp - 2#16 ∧ t.cpu.ime = false ∧ t.cpu.doubleSpeed = speed ∧
       t.cpu.switchArmed = armed)

/-- R73, R308, R445, R466, R471, R474 to R476: the other acts of the CPU, the joypad and the orchestrator. Pressing a button
holds it down, and requests interrupt 4 exactly if it was up and newly asserts a row (which is the joypad's own, log 28);
releasing it requests nothing. A running CPU sets its registers, the flags' low nibble staying zero (in the low byte, log
29), reads and writes the bus, fetches, the halt bug keeping the PC from counting once, halts, or stops, which arms the
speed switch if it is requested in CGB mode (log 10); a halted or stopped one does none of these. A halted or stopped CPU
wakes on an enabled pending interrupt whatever the master enable, the armed switch taking effect when STOP exits. The stall
count is taken and run off as ticks, twice over in double speed, and before a CPU that comes while one is owed does anything
(that an act given alone counts as a step there is log 31). How all these reach the machine is the model's own (log 5, log
15, log 22). (The spec marks as its own decisions D29 in R308, D44 in R466; as general knowledge in R474, R476; as its own
derivations in R308; followed as the spec says, log 23.) -/
def Obligations.ExternalActs : Prop :=
  (∀ (s : State) (rest : List Input) (k : Button), s.fault = none →
     (s.pending = .press k :: rest → ∃ t, step s = .next t ∧
       t = ((s.setPending rest).setExt { s.ext with buttons := t.ext.buttons, joypToken := t.ext.joypToken }).setCpu t.cpu ∧
       (∀ m, t.ext.buttons.held m = if m = k then true else s.ext.buttons.held m) ∧
       (s.ext.buttons.held k = false ∧ Config.joypadAsserts s.ext.joypToken k = true →
         t.cpu = { s.cpu with ifr := s.cpu.ifr ||| 0x10#8 }) ∧
       (s.ext.buttons.held k = true ∨ Config.joypadAsserts s.ext.joypToken k = false → t.cpu = s.cpu)) ∧
     (s.pending = .release k :: rest → ∃ t, step s = .next t ∧
       t = (s.setPending rest).setExt { s.ext with buttons := t.ext.buttons, joypToken := t.ext.joypToken } ∧
       ∀ m, t.ext.buttons.held m = if m = k then false else s.ext.buttons.held m)) ∧
  (∀ (s : State) (rest : List Input), s.fault = none → s.hdma.stall = 0 → s.cpu.run ≠ .halted → s.cpu.run ≠ .stopped →
     (s.pending = .cpuAct .halt :: rest → ∃ t, step s = .next t ∧ t = (s.setPending rest).setCpu t.cpu ∧
       t.cpu = { s.cpu with run := .halted, haltBug := t.cpu.haltBug } ∧
       (t.cpu.haltBug = true ↔ s.cpu.haltBug = true ∨ (s.cpu.ime = false ∧ ∃ n, n < 5 ∧ s.cpu.ifr.getLsbD n = true))) ∧
     (s.pending = .cpuAct .fetch :: rest → ∃ b, exec (.rd true s.cpu.pc) (s.setPending rest) =
         .next ((s.setPending rest).setRdata (some b)) ∧
       step s = .next (((s.setPending rest).setRdata (some b)).setCpu { s.cpu with
         pc := if s.cpu.haltBug = true then s.cpu.pc else s.cpu.pc + 1#16, haltBug := false })) ∧
     (s.pending = .cpuAct .stop :: rest → ∃ t, step s = .next t ∧ t = (s.setPending rest).setCpu t.cpu ∧
       t.cpu = { s.cpu with run := .stopped, switchArmed := t.cpu.switchArmed } ∧
       (s.cfg.hwMode = .cgb → t.cpu.switchArmed = Config.speedSwitchRequested s.cpu.speedToken) ∧
       (s.cfg.hwMode = .dmg → t.cpu.switchArmed = false)) ∧
     (∀ a, s.pending = .cpuAct (.read a) :: rest → step s = exec (.rd true a) (s.setPending rest)) ∧
     (∀ a v, s.pending = .cpuAct (.write a v) :: rest → step s = exec (.wr true a v) (s.setPending rest)) ∧
     (∀ af bc de hl sp pc ime, s.pending = .cpuAct (.set af bc de hl sp pc ime) :: rest →
       ∃ t, step s = .next t ∧ t = (s.setPending rest).setCpu { s.cpu with
           af := t.cpu.af, bc := bc, de := de, hl := hl, sp := sp, pc := pc, ime := ime } ∧
         t.cpu.af.toNat = af.toNat / 16 * 16)) ∧
  (∀ (s : State) (rest : List Input) (act : CpuAct), s.fault = none → s.hdma.stall = 0 → s.cpu.run = .halted ∨ s.cpu.run = .stopped →
     s.pending = .cpuAct act :: rest → step s = .next (s.setPending rest)) ∧
  (∀ (s : State) (rest : List Input), s.fault = none → s.hdma.stall = 0 →
     (s.pending = .cpuService :: rest → (∀ n, n < 5 → ¬ (s.cpu.ie.getLsbD n = true ∧ s.cpu.ifr.getLsbD n = true)) →
       step s = .next (s.setPending rest)) ∧
     (∀ n, s.pending = .cpuService :: rest → n < 5 → s.cpu.ie.getLsbD n = true → s.cpu.ifr.getLsbD n = true →
       s.cpu.ime = false →
       (s.cpu.run = .halted → step s = .next ((s.setPending rest).setCpu { s.cpu with run := .running })) ∧
       (s.cpu.run = .stopped → step s = .next ((s.setPending rest).setCpu { s.cpu with
         run := .running, doubleSpeed := (s.cpu.doubleSpeed != s.cpu.switchArmed), switchArmed := false })))) ∧
  (∀ (s : State) (rest : List Input), s.fault = none → s.pending = .takeStall :: rest → 2 * s.hdma.stall < 65536 →
     step s = exec (if s.cpu.doubleSpeed = true then .iotick2 (BitVec.ofNat 16 (2 * s.hdma.stall))
         else .iotick (BitVec.ofNat 16 s.hdma.stall))
       ((s.setPending rest).setHdma { s.hdma with stall := 0 })) ∧
  (∀ (s : State) (rest : List Input) (x : Input), s.fault = none → s.pending = x :: rest →
     (x = .cpuService ∨ (∃ act, x = .cpuAct act) ∨ ∃ acts cycles idle, x = .cpuTick acts cycles idle) →
     ∃ u, step (s.setPending (.takeStall :: rest)) = .next u ∧ (s.defaultMap → Inv s → u.hdma.stall = 0) ∧
       (u.hdma.stall = 0 → step s = step (u.setPending (x :: rest))))

/-! Invariants. -/

/-- The machine of the model starts with the invariant. -/
def Obligations.InvAtReset : Prop := Inv State.reset

/-- R33, R67, R73, R74, R370, R383, R410, R423: every step keeps the invariant: one owner for an address, the FIFO and
counter bounds, the window's line count (144 after the last line: log 14), the default generators' timers (up to 8192 and
4096: log 14) and the sample counter among them, VBlank exactly on lines 144 and later while the LCD is on, the
multiplexer's bit, the two engines' counters, unused register bits at zero, a powered-off APU clear, the flags' low nibble
zero (R73, in the low byte of AF, which is the model's place for the flags: log 29), and every memory in its canonical form.
(The spec marks as its own decisions D35 in R370, D40 in R410, D41 in R423; as general knowledge in R33, R67, R423; as its
own derivations in R74; followed as the spec says, log 23.) -/
def Obligations.InvStep : Prop :=
  ∀ s t : State, Inv s → step s = .next t → Inv t

/-! The CPU's `Tick()`. -/

/-- R102, R308, R440, R445, R470, R471, R475, R476: one call of the CPU's `Tick()`, with no stall owed before it. With an
enabled interrupt pending under the master enable it is the dispatch; without the master enable a halted or stopped CPU
wakes, the armed switch taking effect when STOP exits (that it toggles the mode is log 10), and goes on as one that runs. A
CPU that runs executes one instruction: its acts one after another, whatever stall they cause, then an `IOTICK` of its
cycles in the speed mode that then holds. One that stays halted or stopped idles and feeds its cycles on. A stall that the
call has caused is run off in it, so with the default map no stall is owed and no general-purpose transfer is under way
after it. That a woken CPU executes in the same call, and that an idle step's cycles, which the spec leaves to the CPU, are
given, are the model's (log 28); the inputs are its own (log 5, log 22). (The spec marks as its own decisions D29 in R308;
as general knowledge in R476; as its own derivations in R308; followed as the spec says, log 23.) -/
def Obligations.CpuTick : Prop :=
  (∀ (s : State) (rest : List Input) (acts : List CpuAct) (cycles idle : BitVec 16), s.fault = none → s.hdma.stall = 0 →
    s.pending = .cpuTick acts cycles idle :: rest →
    (let wanted := ∃ n, n < 5 ∧ s.cpu.ie.getLsbD n = true ∧ s.cpu.ifr.getLsbD n = true
     let asleep := s.cpu.run = .halted ∨ s.cpu.run = .stopped
     let perform := fun (as : List CpuAct) => as.foldl (fun t act => cpuAct act t) (s.setPending rest)
     let feeds := fun (n : BitVec 16) (u : State) =>
       ∃ v, exec (if u.cpu.doubleSpeed = true then .iotick2 n else .iotick n) u = .next v ∧
         step s = step (v.setPending (.takeStall :: rest)) ∧ (v.hdma.stall = 0 → step s = .next v)
     (∃ t, step s = .next t ∧ (s.defaultMap → Inv s →
       (s.hdma.mode = .gp → s.hdma.state = .idle ∨ s.hdma.state = .terminated) →
       t.hdma.stall = 0 ∧ (t.hdma.mode = .gp → t.hdma.state = .idle ∨ t.hdma.state = .terminated))) ∧
     (wanted → s.cpu.ime = true → step s = step (s.setPending (.cpuService :: rest))) ∧
     (wanted → s.cpu.ime = false → s.cpu.run = .halted → step s = step (s.setCpu { s.cpu with run := .running })) ∧
     (wanted → s.cpu.ime = false → s.cpu.run = .stopped → step s = step (s.setCpu { s.cpu with
       run := .running, doubleSpeed := (s.cpu.doubleSpeed != s.cpu.switchArmed), switchArmed := false })) ∧
     (¬ wanted → asleep → feeds idle (s.setPending rest)) ∧
     (¬ (wanted ∧ s.cpu.ime = true) → ¬ asleep → feeds cycles (perform acts) ∧
       ((∀ n, n < acts.length → (perform (acts.take n)).hdma.stall = 0) →
         stepAll acts.length (s.setPending (acts.map .cpuAct ++ rest)) = .next (perform acts))))) ∧
  (∀ (s : State) (act : CpuAct) (n : Nat), cpuAct act (s.owe n) = (cpuAct act s).owe n)
end

