-- ==== Sys2Proof/Laws/Memory.lean ====
section
/-! SUPPORT. The sparse maps: what a read gives after a write, and that every operation keeps the canonical form. -/

namespace Sys2Proof.Machine

variable {α : Type}

@[simp] theorem lookup_insert_same (m : List (Nat × α)) (k : Nat) (v : α) : lookup (insert m k v) k = some v := by
  induction m with
  | nil => simp [insert, lookup]
  | cons e m ih =>
    obtain ⟨j, w⟩ := e
    simp only [insert]
    split
    · simp [lookup]
    · split
      · simp [lookup]
      · rename_i h1 h2
        simp [lookup, Ne.symm h2, ih]

theorem lookup_insert_ne (m : List (Nat × α)) {k i : Nat} (v : α) (h : i ≠ k) :
    lookup (insert m k v) i = lookup m i := by
  induction m with
  | nil => simp [insert, lookup, Ne.symm h]
  | cons e m ih =>
    obtain ⟨j, w⟩ := e
    simp only [insert]
    split
    · simp [lookup, Ne.symm h]
    · split
      · rename_i h2
        subst h2
        simp [lookup, Ne.symm h]
      · simp [lookup, ih]

/-- What a read gives after a write. -/
theorem lookup_insert (m : List (Nat × α)) (k i : Nat) (v : α) :
    lookup (insert m k v) i = if i = k then some v else lookup m i := by
  split
  · next h => rw [h, lookup_insert_same]
  · next h => exact lookup_insert_ne m v h

theorem risingFrom_mono {bound lo lo' : Nat} {m : List (Nat × α)} (h : lo' ≤ lo) (hm : risingFrom bound lo m = true) :
    risingFrom bound lo' m = true := by
  cases m with
  | nil => rfl
  | cons e m =>
    obtain ⟨j, w⟩ := e
    simp only [risingFrom, Bool.and_eq_true, decide_eq_true_eq] at hm ⊢
    exact ⟨⟨by omega, hm.1.2⟩, hm.2⟩

theorem risingFrom_insert {bound lo k : Nat} {m : List (Nat × α)} (v : α) (hk : lo ≤ k) (hb : k < bound)
    (hm : risingFrom bound lo m = true) : risingFrom bound lo (insert m k v) = true := by
  induction m generalizing lo with
  | nil => simp [insert, risingFrom, hk, hb]
  | cons e m ih =>
    obtain ⟨j, w⟩ := e
    simp only [risingFrom, Bool.and_eq_true, decide_eq_true_eq] at hm
    simp only [insert]
    split
    · next h =>
      simp only [risingFrom, Bool.and_eq_true, decide_eq_true_eq]
      exact ⟨⟨hk, hb⟩, ⟨by omega, hm.1.2⟩, hm.2⟩
    · split
      · next h =>
        subst h
        simp [risingFrom, hk, hb, hm.2]
      · simp only [risingFrom, Bool.and_eq_true, decide_eq_true_eq]
        exact ⟨hm.1, ih (by omega) hm.2⟩

theorem risingFrom_erase {bound lo : Nat} {m : List (Nat × α)} (k : Nat) (hm : risingFrom bound lo m = true) :
    risingFrom bound lo (erase m k) = true := by
  induction m generalizing lo with
  | nil => rfl
  | cons e m ih =>
    obtain ⟨j, w⟩ := e
    simp only [risingFrom, Bool.and_eq_true, decide_eq_true_eq] at hm
    simp only [erase]
    split
    · exact risingFrom_mono (by omega) hm.2
    · simp only [risingFrom, Bool.and_eq_true, decide_eq_true_eq]
      exact ⟨hm.1, ih hm.2⟩

/-- A rising map lists nothing below its start. -/
theorem lookup_below {bound lo i : Nat} {m : List (Nat × α)} (hm : risingFrom bound lo m = true) (h : i < lo) :
    lookup m i = none := by
  induction m generalizing lo with
  | nil => rfl
  | cons e m ih =>
    obtain ⟨j, w⟩ := e
    simp only [risingFrom, Bool.and_eq_true, decide_eq_true_eq] at hm
    simp only [lookup]
    rw [if_neg (by omega)]
    exact ih hm.2 (by omega)

theorem lookup_erase {bound lo : Nat} {m : List (Nat × α)} (k i : Nat) (hm : risingFrom bound lo m = true) :
    lookup (erase m k) i = if i = k then none else lookup m i := by
  induction m generalizing lo with
  | nil => simp [erase, lookup]
  | cons e m ih =>
    obtain ⟨j, w⟩ := e
    simp only [risingFrom, Bool.and_eq_true, decide_eq_true_eq] at hm
    simp only [erase]
    split
    · next h =>
      subst h
      split
      · next h2 => subst h2; exact lookup_below hm.2 (by omega)
      · next h2 => simp [lookup, Ne.symm h2]
    · next h =>
      simp only [lookup, ih hm.2]
      split
      · next h2 => subst h2; simp [h]
      · rfl

/-- A write keeps a memory's canonical form. -/
theorem Memory.wf_insert {bound k : Nat} {m : Memory} (v : Byte) (hb : k < bound) (hm : Memory.wf bound m = true) :
    Memory.wf bound (insert m k v) = true := risingFrom_insert v (Nat.zero_le _) hb hm

/-- A written pixel keeps the framebuffer's canonical form. -/
theorem PixelMap.wf_insert {k : Nat} {m : PixelMap} (v : Colour) (hb : k < 144 * 160) (hm : PixelMap.wf m = true) :
    PixelMap.wf (insert m k v) = true := risingFrom_insert v (Nat.zero_le _) hb hm

theorem all_insert {m : List (Nat × α)} {P : Nat × α → Bool} {k : Nat} {v : α} (hm : m.all P = true) (hv : P (k, v) = true) :
    (insert m k v).all P = true := by
  induction m with
  | nil => simp [insert, hv]
  | cons e m ih =>
    obtain ⟨j, w⟩ := e
    simp only [List.all_cons, Bool.and_eq_true] at hm
    simp only [insert]
    split
    · simp [hv, hm]
    · split
      · simp [hv, hm]
      · simp [hm.1, ih hm.2]

theorem all_erase {m : List (Nat × α)} {P : Nat × α → Bool} (k : Nat) (hm : m.all P = true) :
    (erase m k).all P = true := by
  induction m with
  | nil => rfl
  | cons e m ih =>
    obtain ⟨j, w⟩ := e
    simp only [List.all_cons, Bool.and_eq_true] at hm
    simp only [erase]
    split
    · exact hm.2
    · simp [hm.1, ih hm.2]

/-- A replaced queue keeps the sprite map's canonical form. -/
theorem SpriteMap.wf_setQueue {k : Nat} {m : SpriteMap} (q : List Sprite) (hb : k < 248) (hm : SpriteMap.wf m = true) :
    SpriteMap.wf (setQueue m k q) = true := by
  simp only [SpriteMap.wf, Bool.and_eq_true] at hm ⊢
  cases q with
  | nil => exact ⟨risingFrom_erase k hm.1, all_erase k hm.2⟩
  | cons r rs => exact ⟨risingFrom_insert _ (Nat.zero_le _) hb hm.1, all_insert hm.2 rfl⟩

/-- The queues after one is replaced. -/
theorem queueAt_setQueue {m : SpriteMap} (k i : Nat) (q : List Sprite) (hm : SpriteMap.wf m = true) :
    queueAt (setQueue m k q) i = if i = k then q else queueAt m i := by
  simp only [SpriteMap.wf, Bool.and_eq_true] at hm
  cases q with
  | nil =>
    simp only [setQueue, queueAt, lookup_erase k i hm.1]
    split <;> simp
  | cons r rs =>
    simp only [setQueue, queueAt, lookup_insert]
    split <;> simp

/-- A byte after a write: the written cell holds it, every other cell what it held. -/
theorem readCell_insert (r : Region) (draw : Nat) (m : Memory) (k i : Nat) (v : Byte) :
    readCell r draw (insert m k v) i = if i = k then v else readCell r draw m i := by
  simp only [readCell, lookup_insert]
  split <;> simp

@[simp] theorem repeatN_zero (f : α → α) (a : α) : repeatN 0 f a = a := rfl

theorem repeatN_succ (n : Nat) (f : α → α) (a : α) : repeatN (n + 1) f a = repeatN n f (f a) := rfl

theorem repeatN_add (m n : Nat) (f : α → α) (a : α) : repeatN (m + n) f a = repeatN n f (repeatN m f a) := by
  induction m generalizing a with
  | zero => simp
  | succ m ih => rw [Nat.succ_add, repeatN_succ, repeatN_succ, ih]

/-- What one step keeps, any number of steps keep. -/
theorem repeatN_keeps {P : α → Prop} {f : α → α} (hf : ∀ a, P a → P (f a)) (n : Nat) {a : α} (h : P a) :
    P (repeatN n f a) := by
  induction n generalizing a with
  | zero => exact h
  | succ n ih => exact ih (hf a h)

/-- A field no step changes, no number of steps changes. -/
theorem repeatN_field {β : Type} {g : α → β} {f : α → α} (hf : ∀ a, g (f a) = g a) (n : Nat) (a : α) :
    g (repeatN n f a) = g a := by
  induction n generalizing a with
  | zero => rfl
  | succ n ih => rw [repeatN_succ, ih, hf]

end Sys2Proof.Machine
end

