-- ==== Sys2Proof/Laws/State.lean ====
section
/-! SUPPORT. One lemma for each field under each update of the state. -/

namespace Sys2Proof.Machine

@[simp] theorem State.setBus_cfg (s : State) (x : Bus) : (s.setBus x).cfg = s.cfg := rfl
@[simp] theorem State.setBus_bus (s : State) (x : Bus) : (s.setBus x).bus = x := rfl
@[simp] theorem State.setBus_ppu (s : State) (x : Bus) : (s.setBus x).ppu = s.ppu := rfl
@[simp] theorem State.setBus_dma (s : State) (x : Bus) : (s.setBus x).dma = s.dma := rfl
@[simp] theorem State.setBus_hdma (s : State) (x : Bus) : (s.setBus x).hdma = s.hdma := rfl
@[simp] theorem State.setBus_timer (s : State) (x : Bus) : (s.setBus x).timer = s.timer := rfl
@[simp] theorem State.setBus_apu (s : State) (x : Bus) : (s.setBus x).apu = s.apu := rfl
@[simp] theorem State.setBus_halfPhase (s : State) (x : Bus) : (s.setBus x).halfPhase = s.halfPhase := rfl
@[simp] theorem State.setBus_cpu (s : State) (x : Bus) : (s.setBus x).cpu = s.cpu := rfl
@[simp] theorem State.setBus_ext (s : State) (x : Bus) : (s.setBus x).ext = s.ext := rfl
@[simp] theorem State.setBus_fault (s : State) (x : Bus) : (s.setBus x).fault = s.fault := rfl
@[simp] theorem State.setBus_draws (s : State) (x : Bus) : (s.setBus x).draws = s.draws := rfl
@[simp] theorem State.setBus_pending (s : State) (x : Bus) : (s.setBus x).pending = s.pending := rfl
@[simp] theorem State.setBus_rdata (s : State) (x : Bus) : (s.setBus x).rdata = s.rdata := rfl
@[simp] theorem State.setBus_trace (s : State) (x : Bus) : (s.setBus x).trace = s.trace := rfl
@[simp] theorem State.setBus_same (s : State) : s.setBus s.bus = s := rfl
@[simp] theorem State.setBus_twice (s : State) (x y : Bus) : (s.setBus x).setBus y = s.setBus y := rfl

@[simp] theorem State.setPpu_cfg (s : State) (x : Ppu) : (s.setPpu x).cfg = s.cfg := rfl
@[simp] theorem State.setPpu_bus (s : State) (x : Ppu) : (s.setPpu x).bus = s.bus := rfl
@[simp] theorem State.setPpu_ppu (s : State) (x : Ppu) : (s.setPpu x).ppu = x := rfl
@[simp] theorem State.setPpu_dma (s : State) (x : Ppu) : (s.setPpu x).dma = s.dma := rfl
@[simp] theorem State.setPpu_hdma (s : State) (x : Ppu) : (s.setPpu x).hdma = s.hdma := rfl
@[simp] theorem State.setPpu_timer (s : State) (x : Ppu) : (s.setPpu x).timer = s.timer := rfl
@[simp] theorem State.setPpu_apu (s : State) (x : Ppu) : (s.setPpu x).apu = s.apu := rfl
@[simp] theorem State.setPpu_halfPhase (s : State) (x : Ppu) : (s.setPpu x).halfPhase = s.halfPhase := rfl
@[simp] theorem State.setPpu_cpu (s : State) (x : Ppu) : (s.setPpu x).cpu = s.cpu := rfl
@[simp] theorem State.setPpu_ext (s : State) (x : Ppu) : (s.setPpu x).ext = s.ext := rfl
@[simp] theorem State.setPpu_fault (s : State) (x : Ppu) : (s.setPpu x).fault = s.fault := rfl
@[simp] theorem State.setPpu_draws (s : State) (x : Ppu) : (s.setPpu x).draws = s.draws := rfl
@[simp] theorem State.setPpu_pending (s : State) (x : Ppu) : (s.setPpu x).pending = s.pending := rfl
@[simp] theorem State.setPpu_rdata (s : State) (x : Ppu) : (s.setPpu x).rdata = s.rdata := rfl
@[simp] theorem State.setPpu_trace (s : State) (x : Ppu) : (s.setPpu x).trace = s.trace := rfl
@[simp] theorem State.setPpu_same (s : State) : s.setPpu s.ppu = s := rfl
@[simp] theorem State.setPpu_twice (s : State) (x y : Ppu) : (s.setPpu x).setPpu y = s.setPpu y := rfl

@[simp] theorem State.setDma_cfg (s : State) (x : Dma) : (s.setDma x).cfg = s.cfg := rfl
@[simp] theorem State.setDma_bus (s : State) (x : Dma) : (s.setDma x).bus = s.bus := rfl
@[simp] theorem State.setDma_ppu (s : State) (x : Dma) : (s.setDma x).ppu = s.ppu := rfl
@[simp] theorem State.setDma_dma (s : State) (x : Dma) : (s.setDma x).dma = x := rfl
@[simp] theorem State.setDma_hdma (s : State) (x : Dma) : (s.setDma x).hdma = s.hdma := rfl
@[simp] theorem State.setDma_timer (s : State) (x : Dma) : (s.setDma x).timer = s.timer := rfl
@[simp] theorem State.setDma_apu (s : State) (x : Dma) : (s.setDma x).apu = s.apu := rfl
@[simp] theorem State.setDma_halfPhase (s : State) (x : Dma) : (s.setDma x).halfPhase = s.halfPhase := rfl
@[simp] theorem State.setDma_cpu (s : State) (x : Dma) : (s.setDma x).cpu = s.cpu := rfl
@[simp] theorem State.setDma_ext (s : State) (x : Dma) : (s.setDma x).ext = s.ext := rfl
@[simp] theorem State.setDma_fault (s : State) (x : Dma) : (s.setDma x).fault = s.fault := rfl
@[simp] theorem State.setDma_draws (s : State) (x : Dma) : (s.setDma x).draws = s.draws := rfl
@[simp] theorem State.setDma_pending (s : State) (x : Dma) : (s.setDma x).pending = s.pending := rfl
@[simp] theorem State.setDma_rdata (s : State) (x : Dma) : (s.setDma x).rdata = s.rdata := rfl
@[simp] theorem State.setDma_trace (s : State) (x : Dma) : (s.setDma x).trace = s.trace := rfl
@[simp] theorem State.setDma_same (s : State) : s.setDma s.dma = s := rfl
@[simp] theorem State.setDma_twice (s : State) (x y : Dma) : (s.setDma x).setDma y = s.setDma y := rfl

@[simp] theorem State.setHdma_cfg (s : State) (x : Hdma) : (s.setHdma x).cfg = s.cfg := rfl
@[simp] theorem State.setHdma_bus (s : State) (x : Hdma) : (s.setHdma x).bus = s.bus := rfl
@[simp] theorem State.setHdma_ppu (s : State) (x : Hdma) : (s.setHdma x).ppu = s.ppu := rfl
@[simp] theorem State.setHdma_dma (s : State) (x : Hdma) : (s.setHdma x).dma = s.dma := rfl
@[simp] theorem State.setHdma_hdma (s : State) (x : Hdma) : (s.setHdma x).hdma = x := rfl
@[simp] theorem State.setHdma_timer (s : State) (x : Hdma) : (s.setHdma x).timer = s.timer := rfl
@[simp] theorem State.setHdma_apu (s : State) (x : Hdma) : (s.setHdma x).apu = s.apu := rfl
@[simp] theorem State.setHdma_halfPhase (s : State) (x : Hdma) : (s.setHdma x).halfPhase = s.halfPhase := rfl
@[simp] theorem State.setHdma_cpu (s : State) (x : Hdma) : (s.setHdma x).cpu = s.cpu := rfl
@[simp] theorem State.setHdma_ext (s : State) (x : Hdma) : (s.setHdma x).ext = s.ext := rfl
@[simp] theorem State.setHdma_fault (s : State) (x : Hdma) : (s.setHdma x).fault = s.fault := rfl
@[simp] theorem State.setHdma_draws (s : State) (x : Hdma) : (s.setHdma x).draws = s.draws := rfl
@[simp] theorem State.setHdma_pending (s : State) (x : Hdma) : (s.setHdma x).pending = s.pending := rfl
@[simp] theorem State.setHdma_rdata (s : State) (x : Hdma) : (s.setHdma x).rdata = s.rdata := rfl
@[simp] theorem State.setHdma_trace (s : State) (x : Hdma) : (s.setHdma x).trace = s.trace := rfl
@[simp] theorem State.setHdma_same (s : State) : s.setHdma s.hdma = s := rfl
@[simp] theorem State.setHdma_twice (s : State) (x y : Hdma) : (s.setHdma x).setHdma y = s.setHdma y := rfl

@[simp] theorem State.setTimer_cfg (s : State) (x : Timer) : (s.setTimer x).cfg = s.cfg := rfl
@[simp] theorem State.setTimer_bus (s : State) (x : Timer) : (s.setTimer x).bus = s.bus := rfl
@[simp] theorem State.setTimer_ppu (s : State) (x : Timer) : (s.setTimer x).ppu = s.ppu := rfl
@[simp] theorem State.setTimer_dma (s : State) (x : Timer) : (s.setTimer x).dma = s.dma := rfl
@[simp] theorem State.setTimer_hdma (s : State) (x : Timer) : (s.setTimer x).hdma = s.hdma := rfl
@[simp] theorem State.setTimer_timer (s : State) (x : Timer) : (s.setTimer x).timer = x := rfl
@[simp] theorem State.setTimer_apu (s : State) (x : Timer) : (s.setTimer x).apu = s.apu := rfl
@[simp] theorem State.setTimer_halfPhase (s : State) (x : Timer) : (s.setTimer x).halfPhase = s.halfPhase := rfl
@[simp] theorem State.setTimer_cpu (s : State) (x : Timer) : (s.setTimer x).cpu = s.cpu := rfl
@[simp] theorem State.setTimer_ext (s : State) (x : Timer) : (s.setTimer x).ext = s.ext := rfl
@[simp] theorem State.setTimer_fault (s : State) (x : Timer) : (s.setTimer x).fault = s.fault := rfl
@[simp] theorem State.setTimer_draws (s : State) (x : Timer) : (s.setTimer x).draws = s.draws := rfl
@[simp] theorem State.setTimer_pending (s : State) (x : Timer) : (s.setTimer x).pending = s.pending := rfl
@[simp] theorem State.setTimer_rdata (s : State) (x : Timer) : (s.setTimer x).rdata = s.rdata := rfl
@[simp] theorem State.setTimer_trace (s : State) (x : Timer) : (s.setTimer x).trace = s.trace := rfl
@[simp] theorem State.setTimer_same (s : State) : s.setTimer s.timer = s := rfl
@[simp] theorem State.setTimer_twice (s : State) (x y : Timer) : (s.setTimer x).setTimer y = s.setTimer y := rfl

@[simp] theorem State.setApu_cfg (s : State) (x : Apu) : (s.setApu x).cfg = s.cfg := rfl
@[simp] theorem State.setApu_bus (s : State) (x : Apu) : (s.setApu x).bus = s.bus := rfl
@[simp] theorem State.setApu_ppu (s : State) (x : Apu) : (s.setApu x).ppu = s.ppu := rfl
@[simp] theorem State.setApu_dma (s : State) (x : Apu) : (s.setApu x).dma = s.dma := rfl
@[simp] theorem State.setApu_hdma (s : State) (x : Apu) : (s.setApu x).hdma = s.hdma := rfl
@[simp] theorem State.setApu_timer (s : State) (x : Apu) : (s.setApu x).timer = s.timer := rfl
@[simp] theorem State.setApu_apu (s : State) (x : Apu) : (s.setApu x).apu = x := rfl
@[simp] theorem State.setApu_halfPhase (s : State) (x : Apu) : (s.setApu x).halfPhase = s.halfPhase := rfl
@[simp] theorem State.setApu_cpu (s : State) (x : Apu) : (s.setApu x).cpu = s.cpu := rfl
@[simp] theorem State.setApu_ext (s : State) (x : Apu) : (s.setApu x).ext = s.ext := rfl
@[simp] theorem State.setApu_fault (s : State) (x : Apu) : (s.setApu x).fault = s.fault := rfl
@[simp] theorem State.setApu_draws (s : State) (x : Apu) : (s.setApu x).draws = s.draws := rfl
@[simp] theorem State.setApu_pending (s : State) (x : Apu) : (s.setApu x).pending = s.pending := rfl
@[simp] theorem State.setApu_rdata (s : State) (x : Apu) : (s.setApu x).rdata = s.rdata := rfl
@[simp] theorem State.setApu_trace (s : State) (x : Apu) : (s.setApu x).trace = s.trace := rfl
@[simp] theorem State.setApu_same (s : State) : s.setApu s.apu = s := rfl
@[simp] theorem State.setApu_twice (s : State) (x y : Apu) : (s.setApu x).setApu y = s.setApu y := rfl

@[simp] theorem State.setHalfPhase_cfg (s : State) (x : Bool) : (s.setHalfPhase x).cfg = s.cfg := rfl
@[simp] theorem State.setHalfPhase_bus (s : State) (x : Bool) : (s.setHalfPhase x).bus = s.bus := rfl
@[simp] theorem State.setHalfPhase_ppu (s : State) (x : Bool) : (s.setHalfPhase x).ppu = s.ppu := rfl
@[simp] theorem State.setHalfPhase_dma (s : State) (x : Bool) : (s.setHalfPhase x).dma = s.dma := rfl
@[simp] theorem State.setHalfPhase_hdma (s : State) (x : Bool) : (s.setHalfPhase x).hdma = s.hdma := rfl
@[simp] theorem State.setHalfPhase_timer (s : State) (x : Bool) : (s.setHalfPhase x).timer = s.timer := rfl
@[simp] theorem State.setHalfPhase_apu (s : State) (x : Bool) : (s.setHalfPhase x).apu = s.apu := rfl
@[simp] theorem State.setHalfPhase_halfPhase (s : State) (x : Bool) : (s.setHalfPhase x).halfPhase = x := rfl
@[simp] theorem State.setHalfPhase_cpu (s : State) (x : Bool) : (s.setHalfPhase x).cpu = s.cpu := rfl
@[simp] theorem State.setHalfPhase_ext (s : State) (x : Bool) : (s.setHalfPhase x).ext = s.ext := rfl
@[simp] theorem State.setHalfPhase_fault (s : State) (x : Bool) : (s.setHalfPhase x).fault = s.fault := rfl
@[simp] theorem State.setHalfPhase_draws (s : State) (x : Bool) : (s.setHalfPhase x).draws = s.draws := rfl
@[simp] theorem State.setHalfPhase_pending (s : State) (x : Bool) : (s.setHalfPhase x).pending = s.pending := rfl
@[simp] theorem State.setHalfPhase_rdata (s : State) (x : Bool) : (s.setHalfPhase x).rdata = s.rdata := rfl
@[simp] theorem State.setHalfPhase_trace (s : State) (x : Bool) : (s.setHalfPhase x).trace = s.trace := rfl
@[simp] theorem State.setHalfPhase_same (s : State) : s.setHalfPhase s.halfPhase = s := rfl
@[simp] theorem State.setHalfPhase_twice (s : State) (x y : Bool) : (s.setHalfPhase x).setHalfPhase y = s.setHalfPhase y := rfl

@[simp] theorem State.setCpu_cfg (s : State) (x : Cpu) : (s.setCpu x).cfg = s.cfg := rfl
@[simp] theorem State.setCpu_bus (s : State) (x : Cpu) : (s.setCpu x).bus = s.bus := rfl
@[simp] theorem State.setCpu_ppu (s : State) (x : Cpu) : (s.setCpu x).ppu = s.ppu := rfl
@[simp] theorem State.setCpu_dma (s : State) (x : Cpu) : (s.setCpu x).dma = s.dma := rfl
@[simp] theorem State.setCpu_hdma (s : State) (x : Cpu) : (s.setCpu x).hdma = s.hdma := rfl
@[simp] theorem State.setCpu_timer (s : State) (x : Cpu) : (s.setCpu x).timer = s.timer := rfl
@[simp] theorem State.setCpu_apu (s : State) (x : Cpu) : (s.setCpu x).apu = s.apu := rfl
@[simp] theorem State.setCpu_halfPhase (s : State) (x : Cpu) : (s.setCpu x).halfPhase = s.halfPhase := rfl
@[simp] theorem State.setCpu_cpu (s : State) (x : Cpu) : (s.setCpu x).cpu = x := rfl
@[simp] theorem State.setCpu_ext (s : State) (x : Cpu) : (s.setCpu x).ext = s.ext := rfl
@[simp] theorem State.setCpu_fault (s : State) (x : Cpu) : (s.setCpu x).fault = s.fault := rfl
@[simp] theorem State.setCpu_draws (s : State) (x : Cpu) : (s.setCpu x).draws = s.draws := rfl
@[simp] theorem State.setCpu_pending (s : State) (x : Cpu) : (s.setCpu x).pending = s.pending := rfl
@[simp] theorem State.setCpu_rdata (s : State) (x : Cpu) : (s.setCpu x).rdata = s.rdata := rfl
@[simp] theorem State.setCpu_trace (s : State) (x : Cpu) : (s.setCpu x).trace = s.trace := rfl
@[simp] theorem State.setCpu_same (s : State) : s.setCpu s.cpu = s := rfl
@[simp] theorem State.setCpu_twice (s : State) (x y : Cpu) : (s.setCpu x).setCpu y = s.setCpu y := rfl

@[simp] theorem State.setExt_cfg (s : State) (x : Ext) : (s.setExt x).cfg = s.cfg := rfl
@[simp] theorem State.setExt_bus (s : State) (x : Ext) : (s.setExt x).bus = s.bus := rfl
@[simp] theorem State.setExt_ppu (s : State) (x : Ext) : (s.setExt x).ppu = s.ppu := rfl
@[simp] theorem State.setExt_dma (s : State) (x : Ext) : (s.setExt x).dma = s.dma := rfl
@[simp] theorem State.setExt_hdma (s : State) (x : Ext) : (s.setExt x).hdma = s.hdma := rfl
@[simp] theorem State.setExt_timer (s : State) (x : Ext) : (s.setExt x).timer = s.timer := rfl
@[simp] theorem State.setExt_apu (s : State) (x : Ext) : (s.setExt x).apu = s.apu := rfl
@[simp] theorem State.setExt_halfPhase (s : State) (x : Ext) : (s.setExt x).halfPhase = s.halfPhase := rfl
@[simp] theorem State.setExt_cpu (s : State) (x : Ext) : (s.setExt x).cpu = s.cpu := rfl
@[simp] theorem State.setExt_ext (s : State) (x : Ext) : (s.setExt x).ext = x := rfl
@[simp] theorem State.setExt_fault (s : State) (x : Ext) : (s.setExt x).fault = s.fault := rfl
@[simp] theorem State.setExt_draws (s : State) (x : Ext) : (s.setExt x).draws = s.draws := rfl
@[simp] theorem State.setExt_pending (s : State) (x : Ext) : (s.setExt x).pending = s.pending := rfl
@[simp] theorem State.setExt_rdata (s : State) (x : Ext) : (s.setExt x).rdata = s.rdata := rfl
@[simp] theorem State.setExt_trace (s : State) (x : Ext) : (s.setExt x).trace = s.trace := rfl
@[simp] theorem State.setExt_same (s : State) : s.setExt s.ext = s := rfl
@[simp] theorem State.setExt_twice (s : State) (x y : Ext) : (s.setExt x).setExt y = s.setExt y := rfl

@[simp] theorem State.setFault_cfg (s : State) (x : Option Fault) : (s.setFault x).cfg = s.cfg := rfl
@[simp] theorem State.setFault_bus (s : State) (x : Option Fault) : (s.setFault x).bus = s.bus := rfl
@[simp] theorem State.setFault_ppu (s : State) (x : Option Fault) : (s.setFault x).ppu = s.ppu := rfl
@[simp] theorem State.setFault_dma (s : State) (x : Option Fault) : (s.setFault x).dma = s.dma := rfl
@[simp] theorem State.setFault_hdma (s : State) (x : Option Fault) : (s.setFault x).hdma = s.hdma := rfl
@[simp] theorem State.setFault_timer (s : State) (x : Option Fault) : (s.setFault x).timer = s.timer := rfl
@[simp] theorem State.setFault_apu (s : State) (x : Option Fault) : (s.setFault x).apu = s.apu := rfl
@[simp] theorem State.setFault_halfPhase (s : State) (x : Option Fault) : (s.setFault x).halfPhase = s.halfPhase := rfl
@[simp] theorem State.setFault_cpu (s : State) (x : Option Fault) : (s.setFault x).cpu = s.cpu := rfl
@[simp] theorem State.setFault_ext (s : State) (x : Option Fault) : (s.setFault x).ext = s.ext := rfl
@[simp] theorem State.setFault_fault (s : State) (x : Option Fault) : (s.setFault x).fault = x := rfl
@[simp] theorem State.setFault_draws (s : State) (x : Option Fault) : (s.setFault x).draws = s.draws := rfl
@[simp] theorem State.setFault_pending (s : State) (x : Option Fault) : (s.setFault x).pending = s.pending := rfl
@[simp] theorem State.setFault_rdata (s : State) (x : Option Fault) : (s.setFault x).rdata = s.rdata := rfl
@[simp] theorem State.setFault_trace (s : State) (x : Option Fault) : (s.setFault x).trace = s.trace := rfl
@[simp] theorem State.setFault_same (s : State) : s.setFault s.fault = s := rfl
@[simp] theorem State.setFault_twice (s : State) (x y : Option Fault) : (s.setFault x).setFault y = s.setFault y := rfl

@[simp] theorem State.setPending_cfg (s : State) (x : List Input) : (s.setPending x).cfg = s.cfg := rfl
@[simp] theorem State.setPending_bus (s : State) (x : List Input) : (s.setPending x).bus = s.bus := rfl
@[simp] theorem State.setPending_ppu (s : State) (x : List Input) : (s.setPending x).ppu = s.ppu := rfl
@[simp] theorem State.setPending_dma (s : State) (x : List Input) : (s.setPending x).dma = s.dma := rfl
@[simp] theorem State.setPending_hdma (s : State) (x : List Input) : (s.setPending x).hdma = s.hdma := rfl
@[simp] theorem State.setPending_timer (s : State) (x : List Input) : (s.setPending x).timer = s.timer := rfl
@[simp] theorem State.setPending_apu (s : State) (x : List Input) : (s.setPending x).apu = s.apu := rfl
@[simp] theorem State.setPending_halfPhase (s : State) (x : List Input) : (s.setPending x).halfPhase = s.halfPhase := rfl
@[simp] theorem State.setPending_cpu (s : State) (x : List Input) : (s.setPending x).cpu = s.cpu := rfl
@[simp] theorem State.setPending_ext (s : State) (x : List Input) : (s.setPending x).ext = s.ext := rfl
@[simp] theorem State.setPending_fault (s : State) (x : List Input) : (s.setPending x).fault = s.fault := rfl
@[simp] theorem State.setPending_draws (s : State) (x : List Input) : (s.setPending x).draws = s.draws := rfl
@[simp] theorem State.setPending_pending (s : State) (x : List Input) : (s.setPending x).pending = x := rfl
@[simp] theorem State.setPending_rdata (s : State) (x : List Input) : (s.setPending x).rdata = s.rdata := rfl
@[simp] theorem State.setPending_trace (s : State) (x : List Input) : (s.setPending x).trace = s.trace := rfl
@[simp] theorem State.setPending_same (s : State) : s.setPending s.pending = s := rfl
@[simp] theorem State.setPending_twice (s : State) (x y : List Input) : (s.setPending x).setPending y = s.setPending y := rfl

@[simp] theorem State.setRdata_cfg (s : State) (x : Option Byte) : (s.setRdata x).cfg = s.cfg := rfl
@[simp] theorem State.setRdata_bus (s : State) (x : Option Byte) : (s.setRdata x).bus = s.bus := rfl
@[simp] theorem State.setRdata_ppu (s : State) (x : Option Byte) : (s.setRdata x).ppu = s.ppu := rfl
@[simp] theorem State.setRdata_dma (s : State) (x : Option Byte) : (s.setRdata x).dma = s.dma := rfl
@[simp] theorem State.setRdata_hdma (s : State) (x : Option Byte) : (s.setRdata x).hdma = s.hdma := rfl
@[simp] theorem State.setRdata_timer (s : State) (x : Option Byte) : (s.setRdata x).timer = s.timer := rfl
@[simp] theorem State.setRdata_apu (s : State) (x : Option Byte) : (s.setRdata x).apu = s.apu := rfl
@[simp] theorem State.setRdata_halfPhase (s : State) (x : Option Byte) : (s.setRdata x).halfPhase = s.halfPhase := rfl
@[simp] theorem State.setRdata_cpu (s : State) (x : Option Byte) : (s.setRdata x).cpu = s.cpu := rfl
@[simp] theorem State.setRdata_ext (s : State) (x : Option Byte) : (s.setRdata x).ext = s.ext := rfl
@[simp] theorem State.setRdata_fault (s : State) (x : Option Byte) : (s.setRdata x).fault = s.fault := rfl
@[simp] theorem State.setRdata_draws (s : State) (x : Option Byte) : (s.setRdata x).draws = s.draws := rfl
@[simp] theorem State.setRdata_pending (s : State) (x : Option Byte) : (s.setRdata x).pending = s.pending := rfl
@[simp] theorem State.setRdata_rdata (s : State) (x : Option Byte) : (s.setRdata x).rdata = x := rfl
@[simp] theorem State.setRdata_trace (s : State) (x : Option Byte) : (s.setRdata x).trace = s.trace := rfl
@[simp] theorem State.setRdata_same (s : State) : s.setRdata s.rdata = s := rfl
@[simp] theorem State.setRdata_twice (s : State) (x y : Option Byte) : (s.setRdata x).setRdata y = s.setRdata y := rfl

@[simp] theorem State.setTrace_cfg (s : State) (x : List Event) : (s.setTrace x).cfg = s.cfg := rfl
@[simp] theorem State.setTrace_bus (s : State) (x : List Event) : (s.setTrace x).bus = s.bus := rfl
@[simp] theorem State.setTrace_ppu (s : State) (x : List Event) : (s.setTrace x).ppu = s.ppu := rfl
@[simp] theorem State.setTrace_dma (s : State) (x : List Event) : (s.setTrace x).dma = s.dma := rfl
@[simp] theorem State.setTrace_hdma (s : State) (x : List Event) : (s.setTrace x).hdma = s.hdma := rfl
@[simp] theorem State.setTrace_timer (s : State) (x : List Event) : (s.setTrace x).timer = s.timer := rfl
@[simp] theorem State.setTrace_apu (s : State) (x : List Event) : (s.setTrace x).apu = s.apu := rfl
@[simp] theorem State.setTrace_halfPhase (s : State) (x : List Event) : (s.setTrace x).halfPhase = s.halfPhase := rfl
@[simp] theorem State.setTrace_cpu (s : State) (x : List Event) : (s.setTrace x).cpu = s.cpu := rfl
@[simp] theorem State.setTrace_ext (s : State) (x : List Event) : (s.setTrace x).ext = s.ext := rfl
@[simp] theorem State.setTrace_fault (s : State) (x : List Event) : (s.setTrace x).fault = s.fault := rfl
@[simp] theorem State.setTrace_draws (s : State) (x : List Event) : (s.setTrace x).draws = s.draws := rfl
@[simp] theorem State.setTrace_pending (s : State) (x : List Event) : (s.setTrace x).pending = s.pending := rfl
@[simp] theorem State.setTrace_rdata (s : State) (x : List Event) : (s.setTrace x).rdata = s.rdata := rfl
@[simp] theorem State.setTrace_trace (s : State) (x : List Event) : (s.setTrace x).trace = x := rfl
@[simp] theorem State.setTrace_same (s : State) : s.setTrace s.trace = s := rfl
@[simp] theorem State.setTrace_twice (s : State) (x y : List Event) : (s.setTrace x).setTrace y = s.setTrace y := rfl

@[simp] theorem State.setBlocked_cfg (s : State) (g : Segment) (v : Bool) : (s.setBlocked g v).cfg = s.cfg := rfl
@[simp] theorem State.setBlocked_ppu (s : State) (g : Segment) (v : Bool) : (s.setBlocked g v).ppu = s.ppu := rfl
@[simp] theorem State.setBlocked_dma (s : State) (g : Segment) (v : Bool) : (s.setBlocked g v).dma = s.dma := rfl
@[simp] theorem State.setBlocked_hdma (s : State) (g : Segment) (v : Bool) : (s.setBlocked g v).hdma = s.hdma := rfl
@[simp] theorem State.setBlocked_timer (s : State) (g : Segment) (v : Bool) : (s.setBlocked g v).timer = s.timer := rfl
@[simp] theorem State.setBlocked_apu (s : State) (g : Segment) (v : Bool) : (s.setBlocked g v).apu = s.apu := rfl
@[simp] theorem State.setBlocked_halfPhase (s : State) (g : Segment) (v : Bool) : (s.setBlocked g v).halfPhase = s.halfPhase := rfl
@[simp] theorem State.setBlocked_cpu (s : State) (g : Segment) (v : Bool) : (s.setBlocked g v).cpu = s.cpu := rfl
@[simp] theorem State.setBlocked_ext (s : State) (g : Segment) (v : Bool) : (s.setBlocked g v).ext = s.ext := rfl
@[simp] theorem State.setBlocked_fault (s : State) (g : Segment) (v : Bool) : (s.setBlocked g v).fault = s.fault := rfl
@[simp] theorem State.setBlocked_draws (s : State) (g : Segment) (v : Bool) : (s.setBlocked g v).draws = s.draws := rfl
@[simp] theorem State.setBlocked_pending (s : State) (g : Segment) (v : Bool) : (s.setBlocked g v).pending = s.pending := rfl
@[simp] theorem State.setBlocked_rdata (s : State) (g : Segment) (v : Bool) : (s.setBlocked g v).rdata = s.rdata := rfl
@[simp] theorem State.setBlocked_trace (s : State) (g : Segment) (v : Bool) : (s.setBlocked g v).trace = s.trace := rfl
@[simp] theorem State.setBlocked_bus (s : State) (g : Segment) (v : Bool) : (s.setBlocked g v).bus = s.bus.setBlocked g v := rfl

@[simp] theorem raiseIrq_cfg (n : Nat) (s : State) : (raiseIrq n s).cfg = s.cfg := rfl
@[simp] theorem raiseIrq_bus (n : Nat) (s : State) : (raiseIrq n s).bus = s.bus := rfl
@[simp] theorem raiseIrq_ppu (n : Nat) (s : State) : (raiseIrq n s).ppu = s.ppu := rfl
@[simp] theorem raiseIrq_dma (n : Nat) (s : State) : (raiseIrq n s).dma = s.dma := rfl
@[simp] theorem raiseIrq_hdma (n : Nat) (s : State) : (raiseIrq n s).hdma = s.hdma := rfl
@[simp] theorem raiseIrq_timer (n : Nat) (s : State) : (raiseIrq n s).timer = s.timer := rfl
@[simp] theorem raiseIrq_apu (n : Nat) (s : State) : (raiseIrq n s).apu = s.apu := rfl
@[simp] theorem raiseIrq_halfPhase (n : Nat) (s : State) : (raiseIrq n s).halfPhase = s.halfPhase := rfl
@[simp] theorem raiseIrq_ext (n : Nat) (s : State) : (raiseIrq n s).ext = s.ext := rfl
@[simp] theorem raiseIrq_fault (n : Nat) (s : State) : (raiseIrq n s).fault = s.fault := rfl
@[simp] theorem raiseIrq_draws (n : Nat) (s : State) : (raiseIrq n s).draws = s.draws := rfl
@[simp] theorem raiseIrq_pending (n : Nat) (s : State) : (raiseIrq n s).pending = s.pending := rfl
@[simp] theorem raiseIrq_rdata (n : Nat) (s : State) : (raiseIrq n s).rdata = s.rdata := rfl
@[simp] theorem raiseIrq_trace (n : Nat) (s : State) : (raiseIrq n s).trace = s.trace := rfl
@[simp] theorem emit_cfg (e : Event) (s : State) : (emit e s).cfg = s.cfg := rfl
@[simp] theorem emit_bus (e : Event) (s : State) : (emit e s).bus = s.bus := rfl
@[simp] theorem emit_ppu (e : Event) (s : State) : (emit e s).ppu = s.ppu := rfl
@[simp] theorem emit_dma (e : Event) (s : State) : (emit e s).dma = s.dma := rfl
@[simp] theorem emit_hdma (e : Event) (s : State) : (emit e s).hdma = s.hdma := rfl
@[simp] theorem emit_timer (e : Event) (s : State) : (emit e s).timer = s.timer := rfl
@[simp] theorem emit_apu (e : Event) (s : State) : (emit e s).apu = s.apu := rfl
@[simp] theorem emit_halfPhase (e : Event) (s : State) : (emit e s).halfPhase = s.halfPhase := rfl
@[simp] theorem emit_cpu (e : Event) (s : State) : (emit e s).cpu = s.cpu := rfl
@[simp] theorem emit_ext (e : Event) (s : State) : (emit e s).ext = s.ext := rfl
@[simp] theorem emit_fault (e : Event) (s : State) : (emit e s).fault = s.fault := rfl
@[simp] theorem emit_draws (e : Event) (s : State) : (emit e s).draws = s.draws := rfl
@[simp] theorem emit_pending (e : Event) (s : State) : (emit e s).pending = s.pending := rfl
@[simp] theorem emit_rdata (e : Event) (s : State) : (emit e s).rdata = s.rdata := rfl
@[simp] theorem raiseFault_cfg (f : Fault) (s : State) : (raiseFault f s).cfg = s.cfg := rfl
@[simp] theorem raiseFault_bus (f : Fault) (s : State) : (raiseFault f s).bus = s.bus := rfl
@[simp] theorem raiseFault_ppu (f : Fault) (s : State) : (raiseFault f s).ppu = s.ppu := rfl
@[simp] theorem raiseFault_dma (f : Fault) (s : State) : (raiseFault f s).dma = s.dma := rfl
@[simp] theorem raiseFault_hdma (f : Fault) (s : State) : (raiseFault f s).hdma = s.hdma := rfl
@[simp] theorem raiseFault_timer (f : Fault) (s : State) : (raiseFault f s).timer = s.timer := rfl
@[simp] theorem raiseFault_apu (f : Fault) (s : State) : (raiseFault f s).apu = s.apu := rfl
@[simp] theorem raiseFault_halfPhase (f : Fault) (s : State) : (raiseFault f s).halfPhase = s.halfPhase := rfl
@[simp] theorem raiseFault_cpu (f : Fault) (s : State) : (raiseFault f s).cpu = s.cpu := rfl
@[simp] theorem raiseFault_ext (f : Fault) (s : State) : (raiseFault f s).ext = s.ext := rfl
@[simp] theorem raiseFault_draws (f : Fault) (s : State) : (raiseFault f s).draws = s.draws := rfl
@[simp] theorem raiseFault_pending (f : Fault) (s : State) : (raiseFault f s).pending = s.pending := rfl
@[simp] theorem raiseFault_rdata (f : Fault) (s : State) : (raiseFault f s).rdata = s.rdata := rfl
@[simp] theorem raiseFault_trace (f : Fault) (s : State) : (raiseFault f s).trace = s.trace := rfl

@[simp] theorem raiseIrq_ifr (n : Nat) (s : State) : (raiseIrq n s).cpu.ifr = s.cpu.ifr ||| (1#8 <<< n) := rfl
@[simp] theorem emit_trace (e : Event) (s : State) : (emit e s).trace = s.trace ++ [e] := rfl
@[simp] theorem raiseFault_fault (f : Fault) (s : State) : (raiseFault f s).fault = some f := rfl

/-- An interrupt request changes nothing of the CPU but IF. -/
theorem raiseIrq_cpu (n : Nat) (s : State) :
    (raiseIrq n s).cpu = { s.cpu with ifr := s.cpu.ifr ||| (1#8 <<< n) } := rfl

@[simp] theorem Bus.setBlocked_registered (b : Bus) (g : Segment) (v : Bool) :
    (b.setBlocked g v).registered = b.registered := by cases g <;> rfl

@[simp] theorem Bus.setBlocked_lastDmaByte (b : Bus) (g : Segment) (v : Bool) :
    (b.setBlocked g v).lastDmaByte = b.lastDmaByte := by cases g <;> rfl

@[simp] theorem Bus.blocked_setBlocked (b : Bus) (g k : Segment) (v : Bool) :
    (b.setBlocked g v).blocked k = if k = g then v else b.blocked k := by cases g <;> cases k <;> rfl

/-- A reset keeps the parameters and what is outside the block, and draws the unspecified memories anew. -/
theorem resetBlock_eq (s : State) :
    resetBlock s = { State.powerOn s.cfg with
      cpu := s.cpu, ext := s.ext, draws := s.draws + 1, pending := s.pending, rdata := s.rdata, trace := s.trace } := rfl

end Sys2Proof.Machine
end

