-- ==== Sys2Proof/Laws/Bus.lean ====
section
/-! SUPPORT. What the dispatcher can do, said once: where an access goes, what a read returns, what a write may touch. -/

namespace Sys2Proof.Machine

theorem ownerOf_registered {s : State} {a : Addr} {h : HandlerId} (ho : ownerOf s a = some h) :
    h ∈ s.bus.registered ∧ s.cfg.claims h a = true :=
  ⟨List.mem_of_find?_eq_some ho, by simpa using List.find?_some ho⟩

/-- An owner always has a place for the address: no delivery is unclaimed (R461). -/
theorem routeOwner_ne_unclaimed (s : State) (a : Addr) (h : HandlerId) : routeOwner s a ≠ .unclaimed h := by
  intro hr
  simp only [routeOwner] at hr
  cases ho : ownerOf s a with
  | none => simp [ho] at hr
  | some k =>
    have hc := (ownerOf_registered ho).2
    simp only [Config.claims] at hc
    cases hp : s.cfg.placeAt k a with
    | none => simp [hp] at hc
    | some p => simp [ho, hp] at hr

/-- No access meets an unclaimed delivery (R461). -/
theorem route_ne_unclaimed (s : State) (a : Addr) (hb : Bool) (h : HandlerId) : route s a hb ≠ .unclaimed h := by
  intro hr
  simp only [route] at hr
  split at hr
  · exact routeOwner_ne_unclaimed s a h hr
  · split at hr
    · simp at hr
    · exact routeOwner_ne_unclaimed s a h hr

theorem covers_iff {base a : Addr} {size : Nat} :
    covers base size a = true ↔ base.toNat ≤ a.toNat ∧ a.toNat < base.toNat + size := by
  simp [covers]

/-- What a delivery says: a registered handler claims the place, which holds the address at the offset. -/
theorem routeOwner_deliver {s : State} {a : Addr} {p : Place} {off : Nat} (hr : routeOwner s a = .deliver p off) :
    ∃ h, ownerOf s a = some h ∧ p ∈ s.cfg.claimedPlaces h ∧ off = a.toNat - (s.cfg.base p).toNat ∧
      (s.cfg.base p).toNat ≤ a.toNat ∧ a.toNat < (s.cfg.base p).toNat + p.size := by
  simp only [routeOwner] at hr
  cases ho : ownerOf s a with
  | none => simp [ho] at hr
  | some k =>
    cases hp : s.cfg.placeAt k a with
    | none => simp [ho, hp] at hr
    | some q =>
      simp only [ho, hp, Route.deliver.injEq] at hr
      obtain ⟨rfl, rfl⟩ := hr
      have hc := List.find?_some hp
      rw [covers_iff] at hc
      exact ⟨k, rfl, List.mem_of_find?_eq_some hp, rfl, hc.1, hc.2⟩

theorem route_deliver {s : State} {a : Addr} {hb : Bool} {p : Place} {off : Nat} (hr : route s a hb = .deliver p off) :
    routeOwner s a = .deliver p off := by
  simp only [route] at hr
  split at hr
  · exact hr
  · split at hr
    · simp at hr
    · exact hr

/-- A delivery's offset lies inside its place. -/
theorem route_deliver_lt {s : State} {a : Addr} {hb : Bool} {p : Place} {off : Nat}
    (hr : route s a hb = .deliver p off) : off < p.size := by
  obtain ⟨_, _, _, h1, h2, h3⟩ := routeOwner_deliver (route_deliver hr)
  omega

/-- An access with `hb = 0` does not look at the block flags (R163). -/
theorem route_unblocked (s : State) (a : Addr) : route s a false = routeOwner s a := by
  simp only [route]
  split <;> simp

/-- A read changes no state (R94, R163). -/
@[simp] theorem busRead_snd (a : Addr) (hb : Bool) (s : State) : (busRead a hb s).2 = s := by
  simp only [busRead]
  split
  · rfl
  · rfl
  · next h hr => exact absurd hr (route_ne_unclaimed s a hb h)
  · rfl

/-- A read operation gives the byte to its issuer and does nothing else. -/
theorem issueRead_eq (a : Addr) (hb : Bool) (s : State) : issueRead a hb s = s.setRdata (some (busRead a hb s).1) := by
  simp [issueRead]

theorem busRead_blocked {a : Addr} {hb : Bool} {s : State} {g : Segment} (hr : route s a hb = .blocked g) :
    (busRead a hb s).1 = blockedByte s g := by simp [busRead, hr]

theorem busRead_unmapped {a : Addr} {hb : Bool} {s : State} (hr : route s a hb = .unmapped) :
    (busRead a hb s).1 = s.cfg.unmappedReadValue := by simp [busRead, hr]

theorem busRead_deliver {a : Addr} {hb : Bool} {s : State} {p : Place} {off : Nat}
    (hr : route s a hb = .deliver p off) : (busRead a hb s).1 = readPlace p off a hb s := by simp [busRead, hr]

theorem busWrite_blocked {a : Addr} {v : Byte} {hb : Bool} {s : State} {g : Segment} (hr : route s a hb = .blocked g) :
    busWrite a v hb s = s := by simp [busWrite, hr]

theorem busWrite_unmapped {a : Addr} {v : Byte} {hb : Bool} {s : State} (hr : route s a hb = .unmapped) :
    busWrite a v hb s = s := by simp [busWrite, hr]

theorem busWrite_deliver {a : Addr} {v : Byte} {hb : Bool} {s : State} {p : Place} {off : Nat}
    (hr : route s a hb = .deliver p off) : busWrite a v hb s = writePlace p off a v hb s := by simp [busWrite, hr]

/-- Everything a bus write can do: nothing, or the write rule of a place. -/
theorem busWrite_cases (a : Addr) (v : Byte) (hb : Bool) (s : State) :
    busWrite a v hb s = s ∨
      ∃ p off, route s a hb = .deliver p off ∧ off < p.size ∧ busWrite a v hb s = writePlace p off a v hb s := by
  cases hr : route s a hb with
  | blocked g => exact .inl (busWrite_blocked hr)
  | unmapped => exact .inl (busWrite_unmapped hr)
  | unclaimed h => exact absurd hr (route_ne_unclaimed s a hb h)
  | deliver p off => exact .inr ⟨p, off, rfl, route_deliver_lt hr, busWrite_deliver hr⟩

/-- What every place's write rule keeps, a bus write keeps. -/
theorem busWrite_keeps {P : State → Prop} {s : State} (h : P s)
    (hw : ∀ p off a v hb, off < p.size → P (writePlace p off a v hb s)) (a : Addr) (v : Byte) (hb : Bool) :
    P (busWrite a v hb s) := by
  obtain h1 | ⟨p, off, _, hlt, h1⟩ := busWrite_cases a v hb s
  · rw [h1]; exact h
  · rw [h1]; exact hw p off a v hb hlt

/-! What no write rule touches. -/

@[simp] theorem updateStatLine_frame (s : State) :
    (updateStatLine s).cfg = s.cfg ∧ (updateStatLine s).bus = s.bus ∧ (updateStatLine s).dma = s.dma ∧
    (updateStatLine s).hdma = s.hdma ∧ (updateStatLine s).timer = s.timer ∧ (updateStatLine s).apu = s.apu ∧
    (updateStatLine s).halfPhase = s.halfPhase ∧ (updateStatLine s).ext = s.ext ∧ (updateStatLine s).fault = s.fault ∧
    (updateStatLine s).draws = s.draws ∧ (updateStatLine s).pending = s.pending ∧
    (updateStatLine s).rdata = s.rdata ∧ (updateStatLine s).trace = s.trace := by
  simp only [updateStatLine]
  split <;> simp

/-- The PPU after the STAT line is updated: the line itself, and nothing else. -/
theorem updateStatLine_ppu (s : State) :
    (updateStatLine s).ppu = { s.ppu with statLine := s.ppu.statCondition } := by
  simp only [updateStatLine]
  split <;> rfl

/-- The CPU after the STAT line is updated: interrupt 1 requested on a rising edge only (R190). -/
theorem updateStatLine_cpu (s : State) :
    (updateStatLine s).cpu = { s.cpu with
      ifr := if s.ppu.statCondition && !s.ppu.statLine then s.cpu.ifr ||| 2#8 else s.cpu.ifr } := by
  simp only [updateStatLine]
  split <;> rfl

@[simp] theorem releaseSource_frame (s : State) :
    (releaseSource s).cfg = s.cfg ∧ (releaseSource s).ppu = s.ppu ∧ (releaseSource s).hdma = s.hdma ∧
    (releaseSource s).timer = s.timer ∧ (releaseSource s).apu = s.apu ∧ (releaseSource s).halfPhase = s.halfPhase ∧
    (releaseSource s).cpu = s.cpu ∧ (releaseSource s).ext = s.ext ∧ (releaseSource s).fault = s.fault ∧
    (releaseSource s).draws = s.draws ∧ (releaseSource s).pending = s.pending ∧
    (releaseSource s).rdata = s.rdata ∧ (releaseSource s).trace = s.trace := by
  simp only [releaseSource]
  split <;> simp

/-- What no write rule of any place touches. -/
theorem writePlace_frame (p : Place) (off : Nat) (a : Addr) (v : Byte) (hb : Bool) (s : State) :
    (writePlace p off a v hb s).cfg = s.cfg ∧ (writePlace p off a v hb s).halfPhase = s.halfPhase ∧
    (writePlace p off a v hb s).fault = s.fault ∧ (writePlace p off a v hb s).draws = s.draws ∧
    (writePlace p off a v hb s).pending = s.pending ∧ (writePlace p off a v hb s).rdata = s.rdata ∧
    (writePlace p off a v hb s).trace = s.trace ∧
    (writePlace p off a v hb s).bus.registered = s.bus.registered ∧
    (writePlace p off a v hb s).bus.lastDmaByte = s.bus.lastDmaByte := by
  cases p
  case vram => simp only [writePlace]; split <;> simp
  case oam => simp only [writePlace]; split <;> simp
  case lcdc =>
    simp only [writePlace, writeLcdc]
    split
    · simp
    · split <;> simp
  case stat => simp [writePlace, writeStat]
  case lyc => simp [writePlace, writeLyc]
  case dma =>
    simp only [writePlace, writeDma]
    split
    · simp only [releaseSource]; split <;> simp
    · simp
  all_goals simp [writePlace, writeOpaque, setOpaqueToken, writeWram, writeHram]

/-- What no bus write touches. -/
theorem busWrite_frame (a : Addr) (v : Byte) (hb : Bool) (s : State) :
    (busWrite a v hb s).cfg = s.cfg ∧ (busWrite a v hb s).halfPhase = s.halfPhase ∧
    (busWrite a v hb s).fault = s.fault ∧ (busWrite a v hb s).draws = s.draws ∧
    (busWrite a v hb s).pending = s.pending ∧ (busWrite a v hb s).rdata = s.rdata ∧
    (busWrite a v hb s).trace = s.trace ∧ (busWrite a v hb s).bus.registered = s.bus.registered ∧
    (busWrite a v hb s).bus.lastDmaByte = s.bus.lastDmaByte :=
  busWrite_keeps (P := fun t => t.cfg = s.cfg ∧ t.halfPhase = s.halfPhase ∧ t.fault = s.fault ∧ t.draws = s.draws ∧
    t.pending = s.pending ∧ t.rdata = s.rdata ∧ t.trace = s.trace ∧ t.bus.registered = s.bus.registered ∧
    t.bus.lastDmaByte = s.bus.lastDmaByte) (by simp) (fun p off a v hb _ => writePlace_frame p off a v hb s) a v hb

@[simp] theorem busWrite_cfg (a : Addr) (v : Byte) (hb : Bool) (s : State) : (busWrite a v hb s).cfg = s.cfg :=
  (busWrite_frame a v hb s).1
@[simp] theorem busWrite_halfPhase (a : Addr) (v : Byte) (hb : Bool) (s : State) :
    (busWrite a v hb s).halfPhase = s.halfPhase := (busWrite_frame a v hb s).2.1
@[simp] theorem busWrite_fault (a : Addr) (v : Byte) (hb : Bool) (s : State) : (busWrite a v hb s).fault = s.fault :=
  (busWrite_frame a v hb s).2.2.1
@[simp] theorem busWrite_draws (a : Addr) (v : Byte) (hb : Bool) (s : State) : (busWrite a v hb s).draws = s.draws :=
  (busWrite_frame a v hb s).2.2.2.1
@[simp] theorem busWrite_pending (a : Addr) (v : Byte) (hb : Bool) (s : State) :
    (busWrite a v hb s).pending = s.pending := (busWrite_frame a v hb s).2.2.2.2.1
@[simp] theorem busWrite_rdata (a : Addr) (v : Byte) (hb : Bool) (s : State) : (busWrite a v hb s).rdata = s.rdata :=
  (busWrite_frame a v hb s).2.2.2.2.2.1
@[simp] theorem busWrite_trace (a : Addr) (v : Byte) (hb : Bool) (s : State) : (busWrite a v hb s).trace = s.trace :=
  (busWrite_frame a v hb s).2.2.2.2.2.2.1
@[simp] theorem busWrite_registered (a : Addr) (v : Byte) (hb : Bool) (s : State) :
    (busWrite a v hb s).bus.registered = s.bus.registered := (busWrite_frame a v hb s).2.2.2.2.2.2.2.1
@[simp] theorem busWrite_lastDmaByte (a : Addr) (v : Byte) (hb : Bool) (s : State) :
    (busWrite a v hb s).bus.lastDmaByte = s.bus.lastDmaByte := (busWrite_frame a v hb s).2.2.2.2.2.2.2.2

/-- What no bus write touches of the CPU: only IF, IE and the speed-switch register are on the bus. -/
theorem writePlace_cpu (p : Place) (off : Nat) (a : Addr) (v : Byte) (hb : Bool) (s : State) :
    ∃ ifr ie tok, (writePlace p off a v hb s).cpu = { s.cpu with ifr := ifr, ie := ie, speedToken := tok } := by
  cases p
  case vram => simp only [writePlace]; split <;> exact ⟨_, _, _, rfl⟩
  case oam => simp only [writePlace]; split <;> exact ⟨_, _, _, rfl⟩
  case lcdc =>
    simp only [writePlace, writeLcdc]
    split
    · exact ⟨_, _, _, updateStatLine_cpu _⟩
    · split
      · exact ⟨_, _, _, updateStatLine_cpu _⟩
      · exact ⟨_, _, _, rfl⟩
  case stat => exact ⟨_, _, _, updateStatLine_cpu _⟩
  case lyc => exact ⟨_, _, _, updateStatLine_cpu _⟩
  case dma =>
    simp only [writePlace, writeDma]
    split
    · simp only [releaseSource]; split <;> exact ⟨_, _, _, rfl⟩
    · exact ⟨_, _, _, rfl⟩
  all_goals exact ⟨_, _, _, rfl⟩

theorem busWrite_cpu (a : Addr) (v : Byte) (hb : Bool) (s : State) :
    ∃ ifr ie tok, (busWrite a v hb s).cpu = { s.cpu with ifr := ifr, ie := ie, speedToken := tok } :=
  busWrite_keeps (P := fun t => ∃ ifr ie tok, t.cpu = { s.cpu with ifr := ifr, ie := ie, speedToken := tok })
    ⟨_, _, _, rfl⟩ (fun p off a v hb _ => writePlace_cpu p off a v hb s) a v hb

end Sys2Proof.Machine
end

