-- ==== Sys2Proof/Laws/Acts.lean ====
section
/-! SUPPORT. The acts of the external agents: what each leaves alone, that the inputs still to come change none of them, and
the cases of the CPU's `Tick()`. -/

namespace Sys2Proof.Machine

/-! The buttons. -/

@[simp] theorem Buttons.held_put (x : Buttons) (k m : Button) (d : Bool) :
    (x.put k d).held m = if m = k then d else x.held m := by
  cases k <;> cases m <;> rfl

/-! The inputs still to come change no access. -/

@[simp] theorem State.setPending_setBus (s : State) (q : List Input) (x : Bus) :
    (s.setPending q).setBus x = (s.setBus x).setPending q := rfl
@[simp] theorem State.setPending_setPpu (s : State) (q : List Input) (x : Ppu) :
    (s.setPending q).setPpu x = (s.setPpu x).setPending q := rfl
@[simp] theorem State.setPending_setDma (s : State) (q : List Input) (x : Dma) :
    (s.setPending q).setDma x = (s.setDma x).setPending q := rfl
@[simp] theorem State.setPending_setHdma (s : State) (q : List Input) (x : Hdma) :
    (s.setPending q).setHdma x = (s.setHdma x).setPending q := rfl
@[simp] theorem State.setPending_setTimer (s : State) (q : List Input) (x : Timer) :
    (s.setPending q).setTimer x = (s.setTimer x).setPending q := rfl
@[simp] theorem State.setPending_setApu (s : State) (q : List Input) (x : Apu) :
    (s.setPending q).setApu x = (s.setApu x).setPending q := rfl
@[simp] theorem State.setPending_setCpu (s : State) (q : List Input) (x : Cpu) :
    (s.setPending q).setCpu x = (s.setCpu x).setPending q := rfl
@[simp] theorem State.setPending_setExt (s : State) (q : List Input) (x : Ext) :
    (s.setPending q).setExt x = (s.setExt x).setPending q := rfl
@[simp] theorem State.setPending_setRdata (s : State) (q : List Input) (x : Option Byte) :
    (s.setPending q).setRdata x = (s.setRdata x).setPending q := rfl
@[simp] theorem State.setPending_setBlocked (s : State) (q : List Input) (g : Segment) (v : Bool) :
    (s.setPending q).setBlocked g v = (s.setBlocked g v).setPending q := by cases g <;> rfl

@[simp] theorem updateStatLine_setPending (s : State) (q : List Input) :
    updateStatLine (s.setPending q) = (updateStatLine s).setPending q := by
  cases h : (s.ppu.statCondition && !s.ppu.statLine) <;> simp [updateStatLine, raiseIrq, h]

@[simp] theorem releaseSource_setPending (s : State) (q : List Input) :
    releaseSource (s.setPending q) = (releaseSource s).setPending q := by
  simp only [releaseSource, State.setPending_dma]
  split <;> simp

theorem writeLcdc_setPending (v : Byte) (s : State) (q : List Input) :
    writeLcdc v (s.setPending q) = (writeLcdc v s).setPending q := by
  simp only [writeLcdc, State.setPending_ppu, State.setPending_setPpu, updateStatLine_setPending]
  rw [apply_ite (State.setPending · q), apply_ite (State.setPending · q)]

theorem writeDma_setPending (v : Byte) (s : State) (q : List Input) :
    writeDma v (s.setPending q) = (writeDma v s).setPending q := by
  cases h : s.dma.active <;> simp [writeDma, h]

theorem writePlace_setPending (p : Place) (off : Nat) (a : Addr) (v : Byte) (hb : Bool) (s : State) (q : List Input) :
    writePlace p off a v hb (s.setPending q) = (writePlace p off a v hb s).setPending q := by
  cases p
  case vram => cases h : s.ppu.vramLocked s.cfg hb <;> simp [writePlace, h]
  case oam => cases h : s.ppu.oamLocked s.cfg hb <;> simp [writePlace, h]
  case lcdc => exact writeLcdc_setPending v s q
  case dma => exact writeDma_setPending v s q
  all_goals simp [writePlace, writeStat, writeLyc, writeWram, writeHram, writeOpaque, setOpaqueToken, opaqueToken]

@[simp] theorem busWrite_setPending (a : Addr) (v : Byte) (hb : Bool) (s : State) (q : List Input) :
    busWrite a v hb (s.setPending q) = (busWrite a v hb s).setPending q := by
  have hr : route (s.setPending q) a hb = route s a hb := rfl
  simp only [busWrite, hr]
  split
  · rfl
  · rfl
  · rfl
  · exact writePlace_setPending ..

@[simp] theorem busRead_setPending (a : Addr) (hb : Bool) (s : State) (q : List Input) :
    busRead a hb (s.setPending q) = ((busRead a hb s).1, (busRead a hb s).2.setPending q) := by
  have hr : route (s.setPending q) a hb = route s a hb := rfl
  simp only [busRead, hr]
  split
  · rfl
  · rfl
  · rfl
  · rename_i p off _
    cases p <;> rfl

@[simp] theorem issueRead_setPending (a : Addr) (hb : Bool) (s : State) (q : List Input) :
    issueRead a hb (s.setPending q) = (issueRead a hb s).setPending q := by
  simp only [issueRead, busRead_setPending]
  rfl

@[simp] theorem performAct_setPending (act : CpuAct) (s : State) (q : List Input) :
    performAct act (s.setPending q) = (performAct act s).setPending q := by
  cases act with
  | fetch => simp only [performAct, cpuFetch, State.setPending_cpu, issueRead_setPending]; rfl
  | read a => exact issueRead_setPending ..
  | write a v => exact busWrite_setPending ..
  | set af bc de hl sp pc ime => rfl
  | halt => rfl
  | stop => rfl

@[simp] theorem cpuAct_setPending (act : CpuAct) (s : State) (q : List Input) :
    cpuAct act (s.setPending q) = (cpuAct act s).setPending q := by
  simp only [cpuAct, State.setPending_cpu, performAct_setPending]
  split <;> rfl

/-! A stall that is owed changes no access. -/

@[simp] theorem State.owe_setBus (n : Nat) (s : State) (x : Bus) : (s.owe n).setBus x = (s.setBus x).owe n := rfl
@[simp] theorem State.owe_setPpu (n : Nat) (s : State) (x : Ppu) : (s.owe n).setPpu x = (s.setPpu x).owe n := rfl
@[simp] theorem State.owe_setDma (n : Nat) (s : State) (x : Dma) : (s.owe n).setDma x = (s.setDma x).owe n := rfl
@[simp] theorem State.owe_setTimer (n : Nat) (s : State) (x : Timer) : (s.owe n).setTimer x = (s.setTimer x).owe n := rfl
@[simp] theorem State.owe_setApu (n : Nat) (s : State) (x : Apu) : (s.owe n).setApu x = (s.setApu x).owe n := rfl
@[simp] theorem State.owe_setCpu (n : Nat) (s : State) (x : Cpu) : (s.owe n).setCpu x = (s.setCpu x).owe n := rfl
@[simp] theorem State.owe_setExt (n : Nat) (s : State) (x : Ext) : (s.owe n).setExt x = (s.setExt x).owe n := rfl
@[simp] theorem State.owe_setRdata (n : Nat) (s : State) (x : Option Byte) : (s.owe n).setRdata x = (s.setRdata x).owe n := rfl
@[simp] theorem State.owe_cfg (n : Nat) (s : State) : (s.owe n).cfg = s.cfg := rfl
@[simp] theorem State.owe_bus (n : Nat) (s : State) : (s.owe n).bus = s.bus := rfl
@[simp] theorem State.owe_ppu (n : Nat) (s : State) : (s.owe n).ppu = s.ppu := rfl
@[simp] theorem State.owe_dma (n : Nat) (s : State) : (s.owe n).dma = s.dma := rfl
@[simp] theorem State.owe_timer (n : Nat) (s : State) : (s.owe n).timer = s.timer := rfl
@[simp] theorem State.owe_apu (n : Nat) (s : State) : (s.owe n).apu = s.apu := rfl
@[simp] theorem State.owe_cpu (n : Nat) (s : State) : (s.owe n).cpu = s.cpu := rfl
@[simp] theorem State.owe_ext (n : Nat) (s : State) : (s.owe n).ext = s.ext := rfl
@[simp] theorem State.owe_draws (n : Nat) (s : State) : (s.owe n).draws = s.draws := rfl
@[simp] theorem State.owe_setBlocked (n : Nat) (s : State) (g : Segment) (v : Bool) :
    (s.owe n).setBlocked g v = (s.setBlocked g v).owe n := by cases g <;> rfl

@[simp] theorem updateStatLine_owe (n : Nat) (s : State) : updateStatLine (s.owe n) = (updateStatLine s).owe n := by
  cases h : (s.ppu.statCondition && !s.ppu.statLine) <;> simp [updateStatLine, raiseIrq, h]

@[simp] theorem releaseSource_owe (n : Nat) (s : State) : releaseSource (s.owe n) = (releaseSource s).owe n := by
  simp only [releaseSource, State.owe_dma]
  split <;> simp

theorem writeLcdc_owe (v : Byte) (n : Nat) (s : State) : writeLcdc v (s.owe n) = (writeLcdc v s).owe n := by
  simp only [writeLcdc, State.owe_ppu, State.owe_setPpu, updateStatLine_owe]
  rw [apply_ite (State.owe n), apply_ite (State.owe n)]

theorem writeDma_owe (v : Byte) (n : Nat) (s : State) : writeDma v (s.owe n) = (writeDma v s).owe n := by
  cases h : s.dma.active <;> simp [writeDma, h]

/-- The control register adds to what is owed (R306). -/
theorem writeControl_owe (b : Addr) (v : Byte) (n : Nat) (h : Hdma) :
    Hdma.writeControl b v { h with stall := h.stall + n } =
      { Hdma.writeControl b v h with stall := (Hdma.writeControl b v h).stall + n } := by
  have hb : Hdma.busy { h with stall := h.stall + n } = h.busy := rfl
  simp only [Hdma.writeControl, hb]
  split
  · rfl
  · simp only [Hdma.start]
    split
    · rfl
    · simp only [Hdma.mk.injEq, Nat.add_right_comm]
      trivial

theorem writePlace_owe (p : Place) (off : Nat) (a : Addr) (v : Byte) (hb : Bool) (n : Nat) (s : State) :
    writePlace p off a v hb (s.owe n) = (writePlace p off a v hb s).owe n := by
  cases p
  case vram => cases h : s.ppu.vramLocked s.cfg hb <;> simp [writePlace, h]
  case oam => cases h : s.ppu.oamLocked s.cfg hb <;> simp [writePlace, h]
  case lcdc => exact writeLcdc_owe v n s
  case dma => exact writeDma_owe v n s
  case hdma1 => rfl
  case hdma2 => rfl
  case hdma3 => rfl
  case hdma4 => rfl
  case hdma5 => exact congrArg s.setHdma (writeControl_owe (s.cfg.base .vram) v n s.hdma)
  all_goals simp [writePlace, writeStat, writeLyc, writeWram, writeHram, writeOpaque, setOpaqueToken, opaqueToken]

@[simp] theorem busWrite_owe (a : Addr) (v : Byte) (hb : Bool) (n : Nat) (s : State) :
    busWrite a v hb (s.owe n) = (busWrite a v hb s).owe n := by
  have hr : route (s.owe n) a hb = route s a hb := rfl
  simp only [busWrite, hr]
  split
  · rfl
  · rfl
  · rfl
  · exact writePlace_owe ..

@[simp] theorem busRead_owe (a : Addr) (hb : Bool) (n : Nat) (s : State) :
    busRead a hb (s.owe n) = ((busRead a hb s).1, (busRead a hb s).2.owe n) := by
  have hr : route (s.owe n) a hb = route s a hb := rfl
  simp only [busRead, hr]
  split
  · rfl
  · rfl
  · rfl
  · rename_i p off _
    cases p <;> rfl

@[simp] theorem issueRead_owe (a : Addr) (hb : Bool) (n : Nat) (s : State) :
    issueRead a hb (s.owe n) = (issueRead a hb s).owe n := by
  simp only [issueRead, busRead_owe]
  rfl

@[simp] theorem performAct_owe (act : CpuAct) (n : Nat) (s : State) :
    performAct act (s.owe n) = (performAct act s).owe n := by
  cases act with
  | fetch => simp only [performAct, cpuFetch, State.owe_cpu, issueRead_owe]; rfl
  | read a => exact issueRead_owe ..
  | write a v => exact busWrite_owe ..
  | set af bc de hl sp pc ime => rfl
  | halt => rfl
  | stop => rfl

/-! What an act of the CPU leaves alone. -/

theorem issueRead_frame (a : Addr) (hb : Bool) (s : State) :
    (issueRead a hb s).pending = s.pending ∧ (issueRead a hb s).fault = s.fault ∧ (issueRead a hb s).cfg = s.cfg := by
  rw [issueRead_eq]
  exact ⟨rfl, rfl, rfl⟩

/-- An act of the CPU is no operation of the block: the configuration, the inputs to come and the fault state stay. -/
theorem cpuAct_frame (act : CpuAct) (s : State) :
    (cpuAct act s).pending = s.pending ∧ (cpuAct act s).fault = s.fault ∧ (cpuAct act s).cfg = s.cfg := by
  simp only [cpuAct]
  split
  · exact ⟨rfl, rfl, rfl⟩
  · cases act with
    | fetch => exact issueRead_frame ..
    | read a => exact issueRead_frame ..
    | write a v => exact ⟨busWrite_pending .., busWrite_fault .., busWrite_cfg ..⟩
    | set af bc de hl sp pc ime => exact ⟨rfl, rfl, rfl⟩
    | halt => exact ⟨rfl, rfl, rfl⟩
    | stop => exact ⟨rfl, rfl, rfl⟩

/-- A halted or stopped CPU performs no act (R470). -/
theorem cpuAct_of_idles {s : State} (act : CpuAct) (h : s.cpu.idles = true) : cpuAct act s = s := by simp [cpuAct, h]

/-- A CPU that runs performs it. -/
theorem cpuAct_of_runs {s : State} (act : CpuAct) (h : s.cpu.idles = false) : cpuAct act s = performAct act s := by
  simp [cpuAct, h]

/-! The stall (R445). -/

@[simp] theorem ioTick_zero (ds : Bool) (s : State) : ioTick 0 ds s = s := by
  have h : slowCalls 0 ds s.halfPhase = 0 := by cases ds <;> cases s.halfPhase <;> rfl
  simp only [ioTick]
  split
  · rfl
  · simp only [groupTick, h, halfPhaseAfter]
    rfl

/-- With none owed nothing is run off. -/
theorem takeStall_of_zero {s : State} (h : s.hdma.stall = 0) : takeStall s = s := by
  have e : s.setHdma { s.hdma with stall := 0 } = s := by rw [← h]; rfl
  simp [takeStall, h, e]

/-- With no stall owed an act at the head of the inputs is performed. -/
theorem step_cpuAct (act : CpuAct) (rest : List Input) {s : State} (hf : s.fault = none) (h0 : s.hdma.stall = 0) :
    step (s.setPending (.cpuAct act :: rest)) = .next ((cpuAct act s).setPending rest) := by
  simp [step, acceptInput, hf, externalEffect, takeStall_of_zero (s := s.setPending rest) h0]

/-- Acts of the CPU at the head of the inputs are performed one after another, one a step, as long as none but the last
causes a stall. -/
theorem stepAll_cpuActs (acts : List CpuAct) (rest : List Input) (s : State) (hf : s.fault = none)
    (h0 : ∀ n, n < acts.length → ((acts.take n).foldl (fun s act => cpuAct act s) s).hdma.stall = 0) :
    stepAll acts.length (s.setPending (acts.map .cpuAct ++ rest)) =
      .next ((acts.foldl (fun s act => cpuAct act s) s).setPending rest) := by
  induction acts generalizing s with
  | nil => rfl
  | cons act acts ih =>
    have hs : step (s.setPending ((act :: acts).map .cpuAct ++ rest)) =
        .next ((cpuAct act s).setPending (acts.map .cpuAct ++ rest)) := step_cpuAct act _ hf (h0 0 (Nat.succ_pos _))
    simp only [List.length_cons, stepAll, hs, List.foldl_cons]
    exact ih _ ((cpuAct_frame act s).2.1.trans hf) fun n hn => h0 (n + 1) (Nat.succ_lt_succ hn)

/-- A step of the CPU with no stall owed before it or caused by it is the step alone. -/
theorem cpuStep_of_zero {f : State → State} {s : State} (h : s.hdma.stall = 0) (h' : (f s).hdma.stall = 0) :
    cpuStep f s = f s := by rw [cpuStep, takeStall_of_zero h, takeStall_of_zero h']

/-! The cases of the CPU's `Tick()` (R470). -/

/-- A CPU looks for an interrupt and finds none. -/
theorem cpuService_of_none {s : State} (h : s.cpu.pendingEnabled = 0#8) : cpuService s = s := by simp [cpuService, h]

/-- One is pending and enabled, but not under the master enable: the CPU wakes, and that is all (R471). -/
theorem cpuService_of_masked {s : State} (h : s.cpu.pendingEnabled ≠ 0#8) (hi : s.cpu.ime = false) :
    cpuService s = s.setCpu s.cpu.wake := by simp [cpuService, h, hi]

/-- One is serviced. -/
theorem cpuService_of_services {s : State} (h : s.cpu.services = true) :
    cpuService s = serviceInterrupt (lowestBit s.cpu.pendingEnabled) (s.setCpu s.cpu.wake) := by
  simp only [Cpu.services, Bool.and_eq_true, bne_iff_ne] at h
  simp [cpuService, h.1, h.2]

/-- `Tick()` is the service, an idle step, or an instruction. -/
theorem cpuTick_cases (acts : List CpuAct) (cycles idle : Nat) (s : State) :
    (s.cpu.services = true ∧ cpuTick acts cycles idle s = cpuService s) ∨
    (s.cpu.services = false ∧ (cpuService s).cpu.idles = true ∧
      cpuTick acts cycles idle s = ioTick idle (cpuService s).cpu.doubleSpeed (cpuService s)) ∨
    (s.cpu.services = false ∧ (cpuService s).cpu.idles = false ∧
      cpuTick acts cycles idle s = executeInstruction acts cycles (cpuService s)) := by
  cases h1 : s.cpu.services <;> cases h2 : (cpuService s).cpu.idles <;> simp [cpuTick, h1, h2]

end Sys2Proof.Machine
end

