-- ==== Sys2Proof/Laws/Reach.lean ====
section
/-! SUPPORT. The default address map: no two places overlap, so an access to a place of a registered handler arrives. -/

namespace Sys2Proof.Machine

/-- Every place. -/
def placesAll : List Place :=
  Place.inTable ++ [.cartRom, .cartRam, .wramFixed, .wramBank, .wramEcho, .joyp, .serialRegs, .ifReg, .speedSwitch, .svbk,
    .hram, .ieReg]

theorem mem_placesAll (p : Place) : p ∈ placesAll := by cases p <;> decide

/-- No two places of the default map share an address, and none leaves the address space. -/
theorem places_disjoint_table :
    (placesAll.all fun p => decide (p.defaultBase.toNat + p.size ≤ 65536) && placesAll.all fun q =>
      decide (p = q) || decide (p.defaultBase.toNat + p.size ≤ q.defaultBase.toNat)
        || decide (q.defaultBase.toNat + q.size ≤ p.defaultBase.toNat)) = true := by decide +kernel

theorem place_end_le (p : Place) : p.defaultBase.toNat + p.size ≤ 65536 := by
  have h := List.all_eq_true.mp places_disjoint_table p (mem_placesAll p)
  simp only [Bool.and_eq_true, decide_eq_true_eq] at h
  exact h.1

/-- An address lies in one place at most. -/
theorem place_unique {p q : Place} {a : Addr} (hp : covers p.defaultBase p.size a = true)
    (hq : covers q.defaultBase q.size a = true) : p = q := by
  rw [covers_iff] at hp hq
  have h := List.all_eq_true.mp places_disjoint_table p (mem_placesAll p)
  simp only [Bool.and_eq_true, List.all_eq_true, Bool.or_eq_true, decide_eq_true_eq] at h
  obtain (h | h) | h := h.2 q (mem_placesAll q)
  · exact h
  · omega
  · omega

theorem mem_places_placeHandler (p : Place) : p ∈ (placeHandler p).places := by cases p <;> decide

theorem placeHandler_of_mem {p : Place} {h : HandlerId} (hp : p ∈ h.places) : placeHandler p = h := by
  cases h <;> simp only [HandlerId.places, List.mem_cons, List.not_mem_nil, or_false] at hp <;>
    (repeat' (obtain rfl | hp := hp; exact rfl))

theorem placeAddr_toNat {p : Place} {off : Nat} (ho : off < p.size) :
    (placeAddr p off).toNat = p.defaultBase.toNat + off := by
  have h := place_end_le p
  simp only [placeAddr, BitVec.toNat_add, BitVec.toNat_ofNat]
  omega

theorem covers_placeAddr {p : Place} {off : Nat} (ho : off < p.size) :
    covers p.defaultBase p.size (placeAddr p off) = true := by
  rw [covers_iff, placeAddr_toNat ho]
  omega

theorem base_default {c : Config} (hc : c.baseOverride = []) (p : Place) : c.base p = p.defaultBase := by
  simp [Config.base, hc]

/-- The place a handler claims at an address, in the default map. -/
theorem placeAt_default {c : Config} (hc : c.baseOverride = []) {h : HandlerId} {a : Addr} {p : Place}
    (hp : c.placeAt h a = some p) : covers p.defaultBase p.size a = true ∧ placeHandler p = h ∧ c.present p = true := by
  simp only [Config.placeAt] at hp
  have h1 := List.find?_some hp
  have h2 := List.mem_of_find?_eq_some hp
  simp only [Config.claimedPlaces, List.mem_filter] at h2
  rw [base_default hc] at h1
  exact ⟨h1, placeHandler_of_mem h2.1, h2.2⟩

theorem placeAt_placeAddr {c : Config} (hc : c.baseOverride = []) {p : Place} (hp : c.present p = true) {off : Nat}
    (ho : off < p.size) : c.placeAt (placeHandler p) (placeAddr p off) = some p := by
  have hex : (c.placeAt (placeHandler p) (placeAddr p off)).isSome = true := by
    simp only [Config.placeAt, List.find?_isSome]
    refine ⟨p, ?_, ?_⟩
    · simp only [Config.claimedPlaces, List.mem_filter]
      exact ⟨mem_places_placeHandler p, hp⟩
    · rw [base_default hc]
      exact covers_placeAddr ho
  obtain ⟨q, hq⟩ := Option.isSome_iff_exists.mp hex
  rw [hq, place_unique (placeAt_default hc hq).1 (covers_placeAddr ho)]

/-- A registered handler's place owns its addresses, whatever else is registered. -/
theorem routeOwner_placeAddr {s : State} (hc : s.cfg.baseOverride = []) {p : Place} (hp : s.cfg.present p = true)
    (hr : placeHandler p ∈ s.bus.registered) {off : Nat} (ho : off < p.size) :
    routeOwner s (placeAddr p off) = .deliver p off := by
  have hpa := placeAt_placeAddr hc hp ho
  have hex : (ownerOf s (placeAddr p off)).isSome = true := by
    simp only [ownerOf, List.find?_isSome]
    exact ⟨placeHandler p, hr, by simp [Config.claims, hpa]⟩
  obtain ⟨h, hh⟩ := Option.isSome_iff_exists.mp hex
  have hcl := (ownerOf_registered hh).2
  simp only [Config.claims, Option.isSome_iff_exists] at hcl
  obtain ⟨q, hq⟩ := hcl
  have hqd := placeAt_default hc hq
  have he := place_unique hqd.1 (covers_placeAddr ho)
  subst he
  rw [← hqd.2.1] at hh
  simp only [routeOwner, hh, hpa, base_default hc, placeAddr_toNat ho, Nat.add_sub_cancel_left]

/-! What an access that reaches a place does (R163, R164). -/

theorem exec_rd_reached {s : State} {p : Place} {off : Nat} {hb : Bool} (h : Reached s p off hb) :
    exec (.rd hb (placeAddr p off)) s = .next (s.setRdata (some (readPlace p off (placeAddr p off) hb s))) := by
  simp only [exec, execRd, issueRead_eq, busRead_deliver h]

theorem exec_wr_reached {s : State} {p : Place} {off : Nat} {hb : Bool} (v : Byte) (h : Reached s p off hb) :
    exec (.wr hb (placeAddr p off) v) s = .next (writePlace p off (placeAddr p off) v hb s) := by
  simp only [exec, execWr, busWrite_deliver h]

end Sys2Proof.Machine
end

