-- ==== Sys2Proof/Laws/Decode.lean ====
section
/-! SUPPORT. The fields of an encoded word, and what the decoder reads from it. -/

namespace Sys2Proof

theorem encodeBus_class (hb rw : Bool) (a : Addr) (d : Byte) : wordClass (encodeBus hb rw a d) = 0#4 := by
  apply BitVec.eq_of_getLsbD_eq
  intro i hi
  simp only [wordClass, encodeBus, BitVec.getLsbD_extractLsb', BitVec.getLsbD_append, hi]
  rw [if_neg (by omega), if_neg (by omega), if_neg (by omega), if_neg (by omega)]
  simp

theorem encodeBus_hb (hb rw : Bool) (a : Addr) (d : Byte) : wordHb (encodeBus hb rw a d) = hb := by
  simp only [wordHb, encodeBus, BitVec.getLsbD_append]
  simp

theorem encodeBus_rw (hb rw : Bool) (a : Addr) (d : Byte) : wordRw (encodeBus hb rw a d) = rw := by
  simp only [wordRw, encodeBus, BitVec.getLsbD_append]
  simp

theorem encodeBus_addr (hb rw : Bool) (a : Addr) (d : Byte) : wordAddr (encodeBus hb rw a d) = a := by
  apply BitVec.eq_of_getLsbD_eq
  intro i hi
  simp only [wordAddr, encodeBus, BitVec.getLsbD_extractLsb', BitVec.getLsbD_append, hi]
  rw [if_neg (by omega), if_pos (by omega)]
  simp

theorem encodeBus_data (hb rw : Bool) (a : Addr) (d : Byte) : wordData (encodeBus hb rw a d) = d := by
  apply BitVec.eq_of_getLsbD_eq
  intro i hi
  simp only [wordData, encodeBus, BitVec.getLsbD_extractLsb', BitVec.getLsbD_append, hi]
  rw [if_pos (by omega)]
  simp

theorem decode_of_class_zero {w : Word} (h : wordClass w = 0#4) : decode w = .ok (decodeBus w) := by
  simp [decode, h]

/-- A read word of an address that has a row decodes to that row. -/
theorem decode_encodeRead {a : Addr} {p : Place} (hb : Bool) (h : tablePlaceAt a = some p) :
    decode (encodeRead hb a) = .ok (readInstr p hb a) := by
  rw [encodeRead, decode_of_class_zero (encodeBus_class ..)]
  simp [decodeBus, encodeBus_hb, encodeBus_rw, encodeBus_addr, h]

/-- A write word of an address that has a row decodes to that row. -/
theorem decode_encodeWrite {a : Addr} {p : Place} (hb : Bool) (v : Byte) (h : tablePlaceAt a = some p) :
    decode (encodeWrite hb a v) = .ok (writeInstr p hb a v) := by
  rw [encodeWrite, decode_of_class_zero (encodeBus_class ..)]
  simp [decodeBus, encodeBus_hb, encodeBus_rw, encodeBus_addr, encodeBus_data, h]

/-- A read word of an address without a row decodes to the generic read. -/
theorem decode_encodeRead_generic {a : Addr} (hb : Bool) (h : tablePlaceAt a = none) :
    decode (encodeRead hb a) = .ok (.rd hb a) := by
  rw [encodeRead, decode_of_class_zero (encodeBus_class ..)]
  simp [decodeBus, encodeBus_hb, encodeBus_rw, encodeBus_addr, h]

/-- A write word of an address without a row decodes to the generic write. -/
theorem decode_encodeWrite_generic {a : Addr} (hb : Bool) (v : Byte) (h : tablePlaceAt a = none) :
    decode (encodeWrite hb a v) = .ok (.wr hb a v) := by
  rw [encodeWrite, decode_of_class_zero (encodeBus_class ..)]
  simp [decodeBus, encodeBus_hb, encodeBus_rw, encodeBus_addr, encodeBus_data, h]

/-- The table's row at an address inside a place that has rows. -/
theorem tablePlaceAt_placeAddr {p : Place} {off : Nat} (hp : p ∈ Place.inTable) (ho : off < p.size) :
    tablePlaceAt (placeAddr p off) = some p := by
  have hex : (tablePlaceAt (placeAddr p off)).isSome = true := by
    simp only [tablePlaceAt, List.find?_isSome]
    exact ⟨p, hp, Machine.covers_placeAddr ho⟩
  obtain ⟨q, hq⟩ := Option.isSome_iff_exists.mp hex
  have hc := hq
  simp only [tablePlaceAt] at hc
  have h1 := List.find?_some hc
  rw [hq, Machine.place_unique h1 (Machine.covers_placeAddr ho)]

theorem tableOffset_placeAddr {p : Place} {off : Nat} (ho : off < p.size) : tableOffset p (placeAddr p off) = off := by
  simp [tableOffset, Machine.placeAddr_toNat ho]

theorem encodeIotick_fields (ds : Bool) (c : BitVec 16) :
    wordClass (encodeIotick ds c) = 1#4 ∧ (encodeIotick ds c).extractLsb' 17 9 = 0#9 ∧
    (encodeIotick ds c).getLsbD 16 = ds ∧ (encodeIotick ds c).extractLsb' 0 16 = c := by
  refine ⟨?_, ?_, ?_, ?_⟩
  · apply BitVec.eq_of_getLsbD_eq
    intro i hi
    simp only [wordClass, encodeIotick, BitVec.getLsbD_extractLsb', BitVec.getLsbD_append, hi]
    rw [if_neg (by omega), if_neg (by omega), if_neg (by omega)]
    have h4 : i = 0 ∨ i = 1 ∨ i = 2 ∨ i = 3 := by omega
    rcases h4 with rfl | rfl | rfl | rfl <;> rfl
  · apply BitVec.eq_of_getLsbD_eq
    intro i hi
    simp only [encodeIotick, BitVec.getLsbD_extractLsb', BitVec.getLsbD_append, hi]
    rw [if_neg (by omega), if_neg (by omega), if_pos (by omega)]
    simp
  · simp only [encodeIotick, BitVec.getLsbD_append]
    simp
  · apply BitVec.eq_of_getLsbD_eq
    intro i hi
    simp only [encodeIotick, BitVec.getLsbD_extractLsb', BitVec.getLsbD_append, hi]
    rw [if_pos (by omega)]
    simp

/-- A word with its rows' address decodes to the row of a one-byte register. -/
theorem tablePlaceAt_register {p : Place} (hp : p ∈ Place.inTable) (hs : 0 < p.size) :
    tablePlaceAt (placeAddr p 0) = some p := tablePlaceAt_placeAddr hp hs

end Sys2Proof
end

