-- ==== Sys2Proof/Laws/Pixels.lean ====
section
/-! SUPPORT. What the PPU's register writes and the pixel pipeline keep. -/

namespace Sys2Proof.Machine

section

variable {p : Ppu}

/-- The fields the invariant of the PPU speaks of. -/
theorem PpuInv.of_eq {q : Ppu} (h : PpuInv p) (h1 : q.vram = p.vram) (h2 : q.oam = p.oam) (h3 : q.bgPal = p.bgPal)
    (h4 : q.objPal = p.objPal) (h5 : q.fb = p.fb) (h6 : q.spritesAt = p.spritesAt) (h7 : q.ly = p.ly)
    (h8 : q.lineTicks = p.lineTicks) (h9 : q.bgFifo = p.bgFifo) (h10 : q.spFifo = p.spFifo)
    (h11 : q.lineSprites = p.lineSprites) (h12 : q.bcps = p.bcps) (h13 : q.ocps = p.ocps) (h14 : q.lcdc = p.lcdc)
    (h15 : q.mode = p.mode) (h16 : q.lx = p.lx) (h17 : q.winLy = p.winLy) : PpuInv q := by
  constructor <;> simp only [Ppu.lcdEnabled, Ppu.windowLinesMax, h1, h2, h3, h4, h5, h6, h7, h8, h9, h10, h11, h12, h13, h14, h15, h16, h17]
  exacts [h.vram, h.oam, h.bgPal, h.objPal, h.fb, h.spritesAt, h.ly, h.lineTicks, h.bgFifo, h.spFifo, h.lineSprites,
    h.bcps, h.ocps, h.vblank, h.off, h.transfer, h.winLy]

/-- Inside a dot, before the end of the line: as the invariant, but that `line_ticks` may be 456 and `lx` 160. -/
structure DotInv (p : Ppu) : Prop where
  vram        : Memory.wf 0x4000 p.vram = true
  oam         : Memory.wf 160 p.oam = true
  bgPal       : Memory.wf 64 p.bgPal = true
  objPal      : Memory.wf 64 p.objPal = true
  fb          : PixelMap.wf p.fb = true
  spritesAt   : SpriteMap.wf p.spritesAt = true
  ly          : p.ly < 154
  lineTicks   : p.lineTicks ≤ 456
  bgFifo      : p.bgFifo.length ≤ 16
  spFifo      : p.spFifo.length ≤ 8
  lineSprites : p.lineSprites ≤ 10
  bcps        : p.bcps.getLsbD 6 = false
  ocps        : p.ocps.getLsbD 6 = false
  enabled     : p.lcdEnabled = true
  vblank      : p.mode = .vblank ↔ 144 ≤ p.ly
  transfer    : p.mode = .pixelTransfer → p.lx ≤ 160
  winLy       : p.winLy ≤ p.windowLinesMax

theorem PpuInv.toDot (h : PpuInv p) (he : p.lcdEnabled = true) : DotInv p :=
  ⟨h.vram, h.oam, h.bgPal, h.objPal, h.fb, h.spritesAt, h.ly, Nat.le_of_lt h.lineTicks, h.bgFifo, h.spFifo,
    h.lineSprites, h.bcps, h.ocps, he, h.vblank he, fun hm => Nat.le_of_lt (h.transfer hm), h.winLy⟩

theorem DotInv.toInv (h : DotInv p) (hl : p.lineTicks < 456) (hx : p.mode = .pixelTransfer → p.lx < 160) : PpuInv p :=
  ⟨h.vram, h.oam, h.bgPal, h.objPal, h.fb, h.spritesAt, h.ly, hl, h.bgFifo, h.spFifo,
    h.lineSprites, h.bcps, h.ocps, fun _ => h.vblank, by simp [h.enabled], hx, h.winLy⟩

theorem DotInv.of_eq {q : Ppu} (h : DotInv p) (h1 : q.vram = p.vram) (h2 : q.oam = p.oam) (h3 : q.bgPal = p.bgPal)
    (h4 : q.objPal = p.objPal) (h5 : q.fb = p.fb) (h6 : q.spritesAt = p.spritesAt) (h7 : q.ly = p.ly)
    (h8 : q.lineTicks = p.lineTicks) (h9 : q.bgFifo = p.bgFifo) (h10 : q.spFifo = p.spFifo)
    (h11 : q.lineSprites = p.lineSprites) (h12 : q.bcps = p.bcps) (h13 : q.ocps = p.ocps) (h14 : q.lcdc = p.lcdc)
    (h15 : q.mode = p.mode) (h16 : q.lx = p.lx) (h17 : q.winLy = p.winLy) : DotInv q := by
  constructor <;> simp only [Ppu.lcdEnabled, Ppu.windowLinesMax, h1, h2, h3, h4, h5, h6, h7, h8, h9, h10, h11, h12, h13, h14, h15, h16, h17]
  exacts [h.vram, h.oam, h.bgPal, h.objPal, h.fb, h.spritesAt, h.ly, h.lineTicks, h.bgFifo, h.spFifo, h.lineSprites,
    h.bcps, h.ocps, h.enabled, h.vblank, h.transfer, h.winLy]

/-! Register writes. -/

theorem paletteIndexOf_lt (b : Byte) : paletteIndexOf b < 64 := (b.extractLsb' 0 6).isLt

theorem paletteSpecStore_bit6 (v : Byte) : (paletteSpecStore v).getLsbD 6 = false := by
  simp [paletteSpecStore]

theorem paletteSpecNext_bit6 {b : Byte} (h : b.getLsbD 6 = false) : (paletteSpecNext b).getLsbD 6 = false := by
  simp only [paletteSpecNext]
  split
  · rw [BitVec.getLsbD_append]
    simpa using h
  · exact h

theorem Ppu.busBank_le (m : HwMode) : p.busBank m ≤ 1 := by
  have := p.vbk.isLt
  cases m <;> simp only [Ppu.busBank] <;> omega

theorem PpuInv.writeVram {m : HwMode} {off : Nat} (v : Byte) (ho : off < 0x2000) (h : PpuInv p) :
    PpuInv (p.writeVram m off v) := by
  have := p.busBank_le m
  exact ⟨Memory.wf_insert v (by omega) h.vram, h.oam, h.bgPal, h.objPal, h.fb, h.spritesAt, h.ly, h.lineTicks, h.bgFifo,
    h.spFifo, h.lineSprites, h.bcps, h.ocps, h.vblank, h.off, h.transfer, h.winLy⟩

theorem PpuInv.writeOam {i : Nat} (v : Byte) (hi : i < 160) (h : PpuInv p) : PpuInv (p.writeOam i v) :=
  ⟨h.vram, Memory.wf_insert v hi h.oam, h.bgPal, h.objPal, h.fb, h.spritesAt, h.ly, h.lineTicks, h.bgFifo,
    h.spFifo, h.lineSprites, h.bcps, h.ocps, h.vblank, h.off, h.transfer, h.winLy⟩

theorem PpuInv.writeBcpd (v : Byte) (h : PpuInv p) : PpuInv (p.writeBcpd v) :=
  ⟨h.vram, h.oam, Memory.wf_insert v (paletteIndexOf_lt _) h.bgPal, h.objPal, h.fb, h.spritesAt, h.ly, h.lineTicks,
    h.bgFifo, h.spFifo, h.lineSprites, paletteSpecNext_bit6 h.bcps, h.ocps, h.vblank, h.off, h.transfer, h.winLy⟩

theorem PpuInv.writeOcpd (v : Byte) (h : PpuInv p) : PpuInv (p.writeOcpd v) :=
  ⟨h.vram, h.oam, h.bgPal, Memory.wf_insert v (paletteIndexOf_lt _) h.objPal, h.fb, h.spritesAt, h.ly, h.lineTicks,
    h.bgFifo, h.spFifo, h.lineSprites, h.bcps, paletteSpecNext_bit6 h.ocps, h.vblank, h.off, h.transfer, h.winLy⟩

theorem PpuInv.setBcps (v : Byte) (h : PpuInv p) : PpuInv { p with bcps := paletteSpecStore v } :=
  ⟨h.vram, h.oam, h.bgPal, h.objPal, h.fb, h.spritesAt, h.ly, h.lineTicks,
    h.bgFifo, h.spFifo, h.lineSprites, paletteSpecStore_bit6 v, h.ocps, h.vblank, h.off, h.transfer, h.winLy⟩

theorem PpuInv.setOcps (v : Byte) (h : PpuInv p) : PpuInv { p with ocps := paletteSpecStore v } :=
  ⟨h.vram, h.oam, h.bgPal, h.objPal, h.fb, h.spritesAt, h.ly, h.lineTicks,
    h.bgFifo, h.spFifo, h.lineSprites, h.bcps, paletteSpecStore_bit6 v, h.vblank, h.off, h.transfer, h.winLy⟩

theorem PpuInv.lcdOff {v : Byte} (h : PpuInv p) : PpuInv (Ppu.lcdOff { p with lcdc := v }) := by
  refine ⟨h.vram, h.oam, h.bgPal, h.objPal, h.fb, ?_, ?_, ?_, ?_, ?_, ?_, h.bcps, h.ocps, ?_, ?_, ?_, ?_⟩ <;>
    simp [Ppu.lcdOff, Ppu.lcdEnabled, Ppu.windowLinesMax, SpriteMap.wf, risingFrom]

theorem PpuInv.lcdOn {v : Byte} (hv : v.getLsbD 7 = true) (ho : p.lcdEnabled = false) (h : PpuInv p) :
    PpuInv (Ppu.lcdOn { p with lcdc := v }) := by
  obtain ⟨_, hy, _, hw⟩ := h.off ho
  refine ⟨h.vram, h.oam, h.bgPal, h.objPal, h.fb, ?_, h.ly, h.lineTicks, h.bgFifo, h.spFifo, ?_, h.bcps, h.ocps, ?_, ?_,
    ?_, ?_⟩ <;> simp [Ppu.lcdOn, Ppu.scanInit, Ppu.lcdEnabled, Ppu.windowLinesMax, hv, hy, hw, SpriteMap.wf, risingFrom]

theorem PpuInv.setLcdc {v : Byte} (hv : v.getLsbD 7 = p.lcdEnabled) (h : PpuInv p) : PpuInv { p with lcdc := v } :=
  ⟨h.vram, h.oam, h.bgPal, h.objPal, h.fb, h.spritesAt, h.ly, h.lineTicks, h.bgFifo, h.spFifo, h.lineSprites, h.bcps,
    h.ocps, fun he => h.vblank (by rw [← hv]; exact he), fun he => h.off (by rw [← hv]; exact he), h.transfer, h.winLy⟩

/-! The pipeline. -/

theorem spriteKey_lt (x : Byte) : spriteKey x < 248 := by
  have := x.isLt
  simp only [spriteKey]
  omega

theorem DotInv.scanEntry (e : PpuEnv) (i : Nat) (h : DotInv p) : DotInv (p.scanEntry e i) := by
  simp only [Ppu.scanEntry]
  split
  · next hc =>
    simp only [Bool.and_eq_true, decide_eq_true_eq] at hc
    exact ⟨h.vram, h.oam, h.bgPal, h.objPal, h.fb, SpriteMap.wf_setQueue _ (spriteKey_lt _) h.spritesAt, h.ly,
      h.lineTicks, h.bgFifo, h.spFifo, hc.1, h.bcps, h.ocps, h.enabled, h.vblank, h.transfer, h.winLy⟩
  · exact h

theorem DotInv.oamScanStep (e : PpuEnv) (d : Nat) (h : DotInv p) : DotInv (p.oamScanStep e d) := by
  simp only [Ppu.oamScanStep]
  split
  · exact h.scanEntry e _
  · exact h

theorem DotInv.spriteTrigger (hx : p.lx < 248) (h : DotInv p) : DotInv p.spriteTrigger := by
  simp only [Ppu.spriteTrigger]
  split
  · split
    · exact h
    · exact ⟨h.vram, h.oam, h.bgPal, h.objPal, h.fb, SpriteMap.wf_setQueue _ hx h.spritesAt, h.ly,
        h.lineTicks, h.bgFifo, h.spFifo, h.lineSprites, h.bcps, h.ocps, h.enabled, h.vblank, h.transfer, h.winLy⟩
  · exact h

theorem DotInv.windowCheck (m : HwMode) (h : DotInv p) : DotInv (p.windowCheck m) := by
  simp only [Ppu.windowCheck]
  split
  · exact ⟨h.vram, h.oam, h.bgPal, h.objPal, h.fb, h.spritesAt, h.ly, h.lineTicks, by simp, h.spFifo, h.lineSprites,
      h.bcps, h.ocps, h.enabled, h.vblank, h.transfer, h.winLy⟩
  · exact h

theorem DotInv.push (h : DotInv p) : DotInv p.push := by
  simp only [Ppu.push]
  split
  · exact ⟨h.vram, h.oam, h.bgPal, h.objPal, h.fb, h.spritesAt, h.ly, h.lineTicks, by simp, h.spFifo, h.lineSprites,
      h.bcps, h.ocps, h.enabled, h.vblank, h.transfer, h.winLy⟩
  · exact h

theorem DotInv.fetcherStep (e : PpuEnv) (h : DotInv p) : DotInv (p.fetcherStep e) := by
  simp only [Ppu.fetcherStep]
  split
  case h_8 => exact h.push
  all_goals exact ⟨h.vram, h.oam, h.bgPal, h.objPal, h.fb, h.spritesAt, h.ly, h.lineTicks, h.bgFifo, h.spFifo,
    h.lineSprites, h.bcps, h.ocps, h.enabled, h.vblank, h.transfer, h.winLy⟩

theorem mergePixels_length (m : HwMode) (rs q : List Pixel) :
    (mergePixels m rs q).length = max rs.length q.length := by
  induction rs generalizing q with
  | nil => simp [mergePixels]
  | cons r rs ih =>
    cases q with
    | nil => simp [mergePixels, ih]
    | cons e q => simp [mergePixels, ih, Nat.succ_max_succ]

theorem DotInv.spriteHigh (e : PpuEnv) (h : DotInv p) : DotInv (p.spriteHigh e) := by
  refine ⟨h.vram, h.oam, h.bgPal, h.objPal, h.fb, h.spritesAt, h.ly, h.lineTicks, h.bgFifo, ?_, h.lineSprites, h.bcps,
    h.ocps, h.enabled, h.vblank, h.transfer, h.winLy⟩
  have := h.spFifo
  simp only [Ppu.spriteHigh, mergePixels_length, List.length_map, List.length_drop, List.length_range]
  omega

theorem DotInv.spriteFetchStep (e : PpuEnv) (h : DotInv p) : DotInv (p.spriteFetchStep e) := by
  simp only [Ppu.spriteFetchStep]
  split
  case h_7 => exact h.spriteHigh e
  all_goals exact ⟨h.vram, h.oam, h.bgPal, h.objPal, h.fb, h.spritesAt, h.ly, h.lineTicks, h.bgFifo, h.spFifo,
    h.lineSprites, h.bcps, h.ocps, h.enabled, h.vblank, h.transfer, h.winLy⟩

theorem DotInv.pixelOutStep (e : PpuEnv) (hy : p.ly < 144) (hx : p.lx < 160) (h : DotInv p) :
    DotInv (p.pixelOutStep e) := by
  have hb := h.bgFifo
  have hs := h.spFifo
  simp only [Ppu.pixelOutStep]
  split
  · exact h
  · next bg rest hq =>
    rw [hq, List.length_cons] at hb
    split
    · exact ⟨h.vram, h.oam, h.bgPal, h.objPal, h.fb, h.spritesAt, h.ly, h.lineTicks, by simp; omega, h.spFifo,
        h.lineSprites, h.bcps, h.ocps, h.enabled, h.vblank, h.transfer, h.winLy⟩
    · exact ⟨h.vram, h.oam, h.bgPal, h.objPal, PixelMap.wf_insert _ (by simp only [fbCell]; omega) h.fb, h.spritesAt,
        h.ly, h.lineTicks, by simp; omega, by simp; omega,
        h.lineSprites, h.bcps, h.ocps, h.enabled, h.vblank, fun _ => by simpa using hx, h.winLy⟩

@[simp] theorem Ppu.spriteTrigger_frame :
    p.spriteTrigger.ly = p.ly ∧ p.spriteTrigger.lx = p.lx ∧ p.spriteTrigger.mode = p.mode ∧
    p.spriteTrigger.lineTicks = p.lineTicks := by
  simp only [Ppu.spriteTrigger]
  split
  · split <;> simp
  · simp

@[simp] theorem Ppu.windowCheck_frame (m : HwMode) :
    (p.windowCheck m).ly = p.ly ∧ (p.windowCheck m).lx = p.lx ∧ (p.windowCheck m).mode = p.mode ∧
    (p.windowCheck m).lineTicks = p.lineTicks := by
  simp only [Ppu.windowCheck]
  split <;> simp

@[simp] theorem Ppu.fetcherStep_frame (e : PpuEnv) :
    (p.fetcherStep e).ly = p.ly ∧ (p.fetcherStep e).lx = p.lx ∧ (p.fetcherStep e).mode = p.mode ∧
    (p.fetcherStep e).lineTicks = p.lineTicks := by
  simp only [Ppu.fetcherStep]
  split <;> simp [Ppu.fetchTile, Ppu.fetchLow, Ppu.fetchHigh, Ppu.push]
  split <;> simp

@[simp] theorem Ppu.spriteFetchStep_frame (e : PpuEnv) :
    (p.spriteFetchStep e).ly = p.ly ∧ (p.spriteFetchStep e).lx = p.lx ∧ (p.spriteFetchStep e).mode = p.mode ∧
    (p.spriteFetchStep e).lineTicks = p.lineTicks := by
  simp only [Ppu.spriteFetchStep]
  split <;> simp [Ppu.spriteOam, Ppu.spriteLow, Ppu.spriteHigh]

@[simp] theorem Ppu.pixelOutStep_frame (e : PpuEnv) :
    (p.pixelOutStep e).ly = p.ly ∧ (p.pixelOutStep e).mode = p.mode ∧ (p.pixelOutStep e).lineTicks = p.lineTicks := by
  simp only [Ppu.pixelOutStep]
  split
  · simp
  · split <;> simp

@[simp] theorem Ppu.oamScanStep_frame (e : PpuEnv) (d : Nat) :
    (p.oamScanStep e d).ly = p.ly ∧ (p.oamScanStep e d).lx = p.lx ∧ (p.oamScanStep e d).mode = p.mode ∧
    (p.oamScanStep e d).lineTicks = p.lineTicks := by
  simp only [Ppu.oamScanStep, Ppu.scanEntry]
  split
  · split <;> simp
  · simp

@[simp] theorem Ppu.pipelineStep_frame (e : PpuEnv) :
    (p.pipelineStep e).ly = p.ly ∧ (p.pipelineStep e).mode = p.mode ∧ (p.pipelineStep e).lineTicks = p.lineTicks := by
  simp only [Ppu.pipelineStep]
  split <;> simp

/-- The work of a dot changes neither the line, nor its ticks, nor the mode. -/
@[simp] theorem Ppu.dotWork_frame (e : PpuEnv) :
    (p.dotWork e).ly = p.ly ∧ (p.dotWork e).mode = p.mode ∧ (p.dotWork e).lineTicks = p.lineTicks := by
  simp only [Ppu.dotWork]
  split <;> simp

/-- The registers and memories of the PPU, which only the bus and the DMA engines write. -/
def Ppu.programmed (p : Ppu) :=
  (p.lcdc, p.statEn, p.scy, p.scx, p.lyc, p.bgp, p.obp0, p.obp1, p.wy, p.wx, p.vbk, p.bcps, p.ocps, p.opri, p.vram, p.oam,
    p.bgPal, p.objPal)

@[simp] theorem Ppu.spriteTrigger_programmed : p.spriteTrigger.programmed = p.programmed := by
  simp only [Ppu.spriteTrigger]
  repeat' split
  all_goals rfl

@[simp] theorem Ppu.windowCheck_programmed (m : HwMode) : (p.windowCheck m).programmed = p.programmed := by
  simp only [Ppu.windowCheck]
  split <;> rfl

@[simp] theorem Ppu.fetcherStep_programmed (e : PpuEnv) : (p.fetcherStep e).programmed = p.programmed := by
  simp only [Ppu.fetcherStep, Ppu.push]
  repeat' split
  all_goals rfl

@[simp] theorem Ppu.spriteFetchStep_programmed (e : PpuEnv) : (p.spriteFetchStep e).programmed = p.programmed := by
  simp only [Ppu.spriteFetchStep]
  split <;> rfl

@[simp] theorem Ppu.pixelOutStep_programmed (e : PpuEnv) : (p.pixelOutStep e).programmed = p.programmed := by
  simp only [Ppu.pixelOutStep]
  repeat' split
  all_goals rfl

@[simp] theorem Ppu.oamScanStep_programmed (e : PpuEnv) (d : Nat) : (p.oamScanStep e d).programmed = p.programmed := by
  simp only [Ppu.oamScanStep, Ppu.scanEntry]
  repeat' split
  all_goals rfl

/-- The work of a dot writes no register and no memory of the PPU (R183). -/
@[simp] theorem Ppu.dotWork_programmed (e : PpuEnv) : (p.dotWork e).programmed = p.programmed := by
  simp only [Ppu.dotWork, Ppu.pipelineStep]
  repeat' split
  all_goals simp

@[simp] theorem Ppu.dot_programmed (e : PpuEnv) : (p.dot e).programmed = p.programmed := by
  simp only [Ppu.dot, Ppu.modeChange]
  repeat' split
  all_goals exact p.dotWork_programmed e

theorem DotInv.pipelineStep (e : PpuEnv) (hm : p.mode = .pixelTransfer) (hx : p.lx < 160) (h : DotInv p) :
    DotInv (p.pipelineStep e) := by
  have hy : p.ly < 144 := by
    by_contra hc
    have := h.vblank.mpr (by omega)
    simp [hm] at this
  have ht := h.spriteTrigger (by omega)
  simp only [Ppu.pipelineStep]
  split
  · exact ((ht.windowCheck _).fetcherStep e).pixelOutStep e (by simpa using hy) (by simpa using hx)
  · exact ht.spriteFetchStep e

theorem DotInv.dotWork (e : PpuEnv) (hx : p.mode = .pixelTransfer → p.lx < 160) (h : DotInv p) :
    DotInv (p.dotWork e) := by
  cases hm : p.mode with
  | hblank => simpa [Ppu.dotWork, hm] using h
  | vblank => simpa [Ppu.dotWork, hm] using h
  | oamScan => simpa [Ppu.dotWork, hm] using h.oamScanStep e _
  | pixelTransfer => simpa [Ppu.dotWork, hm] using h.pipelineStep e hm (hx hm)

theorem DotInv.modeChange (h : DotInv p) :
    DotInv p.modeChange ∧ (p.modeChange.mode = .pixelTransfer → p.modeChange.lx < 160) := by
  simp only [Ppu.modeChange]
  split
  · next hc =>
    simp only [Bool.and_eq_true, beq_iff_eq, decide_eq_true_eq] at hc
    have hv := h.vblank
    simp only [hc.1, reduceCtorEq, false_iff] at hv
    refine ⟨⟨h.vram, h.oam, h.bgPal, h.objPal, h.fb, h.spritesAt, h.ly, h.lineTicks, by simp [Ppu.pipelineInit],
      by simp [Ppu.pipelineInit], h.lineSprites, h.bcps, h.ocps, h.enabled, ?_, by simp [Ppu.pipelineInit],
      by simpa [Ppu.windowLinesMax, hc.1, Ppu.pipelineInit] using h.winLy⟩,
      by simp [Ppu.pipelineInit]⟩
    simpa [Ppu.pipelineInit] using hv
  · split
    · next hc =>
      simp only [Bool.and_eq_true, beq_iff_eq, decide_eq_true_eq] at hc
      have hv := h.vblank
      simp only [hc.1, reduceCtorEq, false_iff] at hv
      refine ⟨⟨h.vram, h.oam, h.bgPal, h.objPal, h.fb, h.spritesAt, h.ly, h.lineTicks, h.bgFifo, h.spFifo, h.lineSprites,
        h.bcps, h.ocps, h.enabled, by simpa using hv, by simp, ?_⟩, by simp⟩
      have hw := h.winLy
      simp only [Ppu.windowLinesMax, hc.1] at hw ⊢
      split <;> omega
    · next hc =>
      simp only [Bool.and_eq_true, beq_iff_eq, decide_eq_true_eq, not_and] at hc
      exact ⟨h, fun hm => Nat.lt_of_le_of_ne (h.transfer hm) (hc hm)⟩

/-- A dot, up to the end of the line. -/
theorem DotInv.dot (e : PpuEnv) (hl : p.lineTicks < 456) (hx : p.mode = .pixelTransfer → p.lx < 160) (h : DotInv p) :
    DotInv (p.dot e) ∧ ((p.dot e).mode = .pixelTransfer → (p.dot e).lx < 160) := by
  have hw := h.dotWork e hx
  refine DotInv.modeChange ⟨hw.vram, hw.oam, hw.bgPal, hw.objPal, hw.fb, hw.spritesAt, hw.ly, ?_, hw.bgFifo, hw.spFifo,
    hw.lineSprites, hw.bcps, hw.ocps, hw.enabled, hw.vblank, hw.transfer, hw.winLy⟩
  simpa using hl

/-- A dot counts one tick and stays on its line. -/
theorem Ppu.dot_line (e : PpuEnv) : (p.dot e).ly = p.ly ∧ (p.dot e).lineTicks = p.lineTicks + 1 := by
  simp only [Ppu.dot, Ppu.modeChange]
  split
  · simp [Ppu.pipelineInit]
  · split <;> simp

end

/-- The end of a line keeps the PPU's invariant, from a dot that has made its 456th tick. -/
theorem PpuInv.lineEnd {s : State} (h : DotInv s.ppu) : PpuInv (lineEnd s).ppu := by
  have hy := h.ly
  have hw := h.winLy
  have hm : s.ppu.windowLinesMax ≤ s.ppu.ly + 1 ∧ s.ppu.windowLinesMax ≤ 144 := by
    have hv := h.vblank
    simp only [Ppu.windowLinesMax]
    split <;> simp_all <;> omega
  simp only [Machine.lineEnd]
  split
  · next hc =>
    refine ⟨h.vram, h.oam, h.bgPal, h.objPal, h.fb, h.spritesAt, ?_, ?_, h.bgFifo, h.spFifo, h.lineSprites, h.bcps,
      h.ocps, fun _ => ?_, fun ho => ?_, ?_, ?_⟩ <;> simp
    · omega
    · omega
    · simpa [Ppu.lcdEnabled] using h.enabled.symm.trans ho
    · exact hw.trans hm.2
  · split
    · next hc =>
      refine ⟨h.vram, h.oam, h.bgPal, h.objPal, h.fb, ?_, ?_, ?_, h.bgFifo, h.spFifo, ?_, h.bcps,
        h.ocps, fun _ => ?_, fun ho => ?_, ?_, ?_⟩ <;> simp [Ppu.scanInit, SpriteMap.wf, risingFrom]
      · omega
      · omega
      · exact absurd (h.enabled.symm.trans ho) (by simp)
      · show (if _ then 0 else s.ppu.winLy) ≤ (s.ppu.ly + 1) % 154
        split <;> omega
    · next hc1 hc2 =>
      have hv : s.ppu.mode = .vblank := h.vblank.mpr (by omega)
      refine ⟨h.vram, h.oam, h.bgPal, h.objPal, h.fb, h.spritesAt, ?_, ?_, h.bgFifo, h.spFifo, h.lineSprites, h.bcps,
        h.ocps, fun _ => ?_, fun ho => ?_, ?_, ?_⟩ <;> simp [hv]
      · omega
      · omega
      · exact absurd (h.enabled.symm.trans ho) (by simp)
      · simpa [Ppu.windowLinesMax, hv] using hw.trans hm.2

end Sys2Proof.Machine
end

