-- ==== Sys2Proof/Laws/Units.lean ====
section
/-! SUPPORT. What the units' operations keep: the Timer, the DMA engines' registers, the APU and the PPU. -/

namespace Sys2Proof.Machine

/-! The Timer. -/

theorem TimerInv.incTima {hold : Nat} {t : Timer} (h : TimerInv hold t) : TimerInv hold (t.incTima hold) := by
  constructor
  · exact h.selBit
  · simp only [Timer.incTima]
    split
    · exact Nat.le_refl _
    · exact h.reloadCtr

theorem TimerInv.onFall {hold : Nat} {t : Timer} (old : Bool) (h : TimerInv hold t) :
    TimerInv hold (Timer.onFall hold old t) := by
  simp only [Timer.onFall]
  split
  · exact h.incTima
  · exact h

theorem TimerInv.writeDiv {hold : Nat} {t : Timer} (h : TimerInv hold t) : TimerInv hold (t.writeDiv hold) := by
  have h' : TimerInv hold { t with counter := 0#16 } := ⟨h.selBit, h.reloadCtr⟩
  simp only [Timer.writeDiv]
  split
  · exact h'.incTima
  · exact h'

theorem TimerInv.writeTima {hold : Nat} {t : Timer} (v : Byte) (h : TimerInv hold t) :
    TimerInv hold (t.writeTima hold v) := by
  simp only [Timer.writeTima]
  split
  · exact ⟨h.selBit, Nat.zero_le _⟩
  · split
    · exact h
    · exact ⟨h.selBit, h.reloadCtr⟩

theorem TimerInv.writeTma {hold : Nat} {t : Timer} (f : Bool) (v : Byte) (h : TimerInv hold t) :
    TimerInv hold (t.writeTma hold f v) := ⟨h.selBit, h.reloadCtr⟩

theorem tacSelect_store (v : Byte) : tacSelect (v.extractLsb' 0 3) = v.extractLsb' 0 2 := by
  simp only [tacSelect]
  apply BitVec.eq_of_getLsbD_eq
  intro i hi
  simp [hi]

theorem TimerInv.writeTac {hold : Nat} {t : Timer} (v : Byte) (h : TimerInv hold t) :
    TimerInv hold (t.writeTac hold v) := by
  have h' : TimerInv hold { t with tac := v.extractLsb' 0 3, selBit := muxOf (v.extractLsb' 0 2) } :=
    ⟨by rw [tacSelect_store], h.reloadCtr⟩
  exact h'.onFall _

theorem TimerInv.tick {hold : Nat} {t : Timer} (h : TimerInv hold t) :
    TimerInv hold ((t.reloadStep hold).1.countStep hold) := by
  have h1 : TimerInv hold (t.reloadStep hold).1 := by
    have hr := h.reloadCtr
    simp only [Timer.reloadStep]
    split
    · split
      · exact ⟨h.selBit, Nat.le_trans (Nat.sub_le _ _) hr⟩
      · exact ⟨h.selBit, Nat.le_trans (Nat.sub_le _ _) hr⟩
    · exact h
  have h2 : TimerInv hold { (t.reloadStep hold).1 with counter := (t.reloadStep hold).1.counter + 1#16 } :=
    ⟨h1.selBit, h1.reloadCtr⟩
  exact h2.onFall _

/-! The registers of the DMA engines. -/

theorem releaseSource_srcSeg (s : State) : (releaseSource s).dma = { s.dma with srcSeg := none } := by
  simp only [releaseSource]
  split
  · rfl
  · next h => cases hd : s.dma; simp_all

theorem DmaInv.start {d : Dma} (v : Byte) : DmaInv (d.start v) := by
  constructor <;> simp [Dma.start]

theorem hdmaLength_bounds (v : Byte) : 16 ≤ hdmaLength v ∧ hdmaLength v ≤ 2048 := by
  have := (v.extractLsb' 0 7).isLt
  simp only [hdmaLength]
  omega

/-- A masked offset lies inside VRAM (R304, R313). -/
theorem vram_offset_lt (base x : Addr) {m : Addr} (hm : m.toNat < 0x2000) : (base + (x &&& m) - base).toNat < 0x2000 := by
  rw [BitVec.add_comm, BitVec.add_sub_cancel, BitVec.toNat_and]
  exact Nat.lt_of_le_of_lt Nat.and_le_right hm

theorem HdmaInv.start {h : Hdma} (base : Addr) (v : Byte) : HdmaInv base (h.start base v) := by
  have hl := hdmaLength_bounds v
  have hd := vram_offset_lt base (h.dstHi ++ h.dstLo) (m := 0x1FF0#16) (by decide)
  simp only [Hdma.start]
  split
  · exact ⟨fun _ => hd, hl.2, by simp; omega⟩
  · exact ⟨fun _ => hd, hl.2, by simp; omega⟩

theorem HdmaInv.writeControl {h : Hdma} (base : Addr) (v : Byte) (hi : HdmaInv base h) :
    HdmaInv base (h.writeControl base v) := by
  simp only [Hdma.writeControl]
  split
  · next hc =>
    have hne : h.state ≠ .idle := by
      intro he
      simp [Hdma.busy, he] at hc
    exact ⟨by simp [Hdma.cancel, Hdma.busy], hi.remaining, by simpa [Hdma.cancel] using fun h0 => hne (hi.idle.mpr h0)⟩
  · exact HdmaInv.start base v

/-! The APU. -/

section

variable {period : PosNat} {a : Apu}

theorem periodOr8_le_of_lt {n : Nat} (h : n < 8) : periodOr8 n ≤ 8 := by
  unfold periodOr8
  split <;> omega

theorem periodOr8_le (b : Byte) : periodOr8 (envPeriod b) ≤ 8 := periodOr8_le_of_lt (b.extractLsb' 0 3).isLt

theorem periodOr8_sweep_le (b : Byte) : periodOr8 (sweepPeriod b) ≤ 8 := periodOr8_le_of_lt (b.extractLsb' 4 3).isLt

theorem Envelope.clock_timer_le {e : Envelope} (b : Byte) (h : e.timer ≤ 8) : (e.clock b).timer ≤ 8 := by
  simp only [Envelope.clock]
  split
  · exact periodOr8_le b
  · exact Nat.le_trans (Nat.sub_le _ _) h

theorem Chan.lengthClock_le {k : Chan} {n : Nat} (h : k.length ≤ n) : k.lengthClock.length ≤ n := by
  simp only [Chan.lengthClock]
  split
  · exact Nat.le_trans (Nat.sub_le _ _) h
  · exact h

theorem Chan.lengthClock_disabled {k : Chan} (h : k.enabled = false) : k.lengthClock.enabled = false := by
  simp only [Chan.lengthClock]
  split <;> simp [h]

theorem Chan.trigger_le {k : Chan} {n : Nat} (l : Option Nat) (h : k.length ≤ n) : (k.trigger n l).length ≤ n := by
  simp only [Chan.trigger]
  split
  · split
    · exact Nat.sub_le _ _
    · exact Nat.le_refl _
  · exact h

theorem lengthLoad64_le (v : Byte) : lengthLoad64 v ≤ 64 := Nat.sub_le _ _
theorem lengthLoad256_le (v : Byte) : lengthLoad256 v ≤ 256 := Nat.sub_le _ _

theorem mask47 (v : Byte) : v &&& 0x47#8 &&& 0xB8#8 = 0#8 := by
  rw [BitVec.and_assoc]
  simp

theorem mask7F (v : Byte) : v &&& 0x7F#8 &&& 0x80#8 = 0#8 := by
  rw [BitVec.and_assoc]
  simp

/-- The write-back of a sweep clock leaves the bits of NR14 above the frequency as they were. -/
theorem sweepStore_mask (b : Byte) (n : BitVec 11) (h : b &&& 0xB8#8 = 0#8) :
    (b.extractLsb' 3 5 ++ n.extractLsb' 8 3 : BitVec 8) &&& 0xB8#8 = 0#8 := by
  have h' : ∀ i, i < 8 → (b.getLsbD i && (0xB8#8).getLsbD i) = false := by
    intro i hi
    have := congrArg (fun x => x.getLsbD i) h
    simpa [BitVec.getLsbD_and] using this
  apply BitVec.eq_of_getLsbD_eq
  intro i hi
  have := h' i hi
  simp only [BitVec.getLsbD_and, BitVec.getLsbD_append, BitVec.getLsbD_extractLsb', BitVec.getLsbD_zero]
  have hc : i = 0 ∨ i = 1 ∨ i = 2 ∨ i = 3 ∨ i = 4 ∨ i = 5 ∨ i = 6 ∨ i = 7 := by omega
  rcases hc with rfl | rfl | rfl | rfl | rfl | rfl | rfl | rfl <;> simp_all

theorem ApuInv.disable (c : Channel) (h : ApuInv period a) : ApuInv period (a.disable c) := by
  cases c
  all_goals
    refine ⟨h.fsCounter, h.fsStep, h.fsLast, h.length1, h.length2, h.length3, h.length4, h.envelope1, h.envelope2,
      h.envelope4, h.sweep, h.nr10, h.nr14, h.nr24, h.nr34, h.nr44, h.wave, fun hp => ?_, h.sampleCtr, h.ftimers⟩
    obtain ⟨h1, h2, h3, h4, h5⟩ := h.off hp
    refine ⟨h1, ?_, ?_, ?_, ?_⟩ <;> simp_all [Apu.disable, Apu.setChan]

theorem ApuInv.dacGate (c : Channel) (h : ApuInv period a) : ApuInv period (a.dacGate c) := by
  simp only [Apu.dacGate]
  split
  · exact h
  · exact h.disable c

theorem Apu.disable_power (c : Channel) : (a.disable c).power = a.power := by cases c <;> rfl

theorem ApuInv.writeWave {i : Nat} (v : Byte) (hi : i < 16) (h : ApuInv period a) : ApuInv period (a.writeWave i v) :=
  ⟨h.fsCounter, h.fsStep, h.fsLast, h.length1, h.length2, h.length3, h.length4, h.envelope1, h.envelope2,
    h.envelope4, h.sweep, h.nr10, h.nr14, h.nr24, h.nr34, h.nr44, Memory.wf_insert v hi h.wave, h.off, h.sampleCtr, h.ftimers⟩

theorem ApuInv.ifPower {a' : Apu} (h : ApuInv period a) (h' : a.power = true → ApuInv period a') :
    ApuInv period (a.ifPower a') := by
  simp only [Apu.ifPower]
  split
  · next hp => exact h' hp
  · exact h

theorem ApuInv.writeNr10 (v : Byte) (h : ApuInv period a) : ApuInv period (a.writeNr10 v) :=
  h.ifPower fun hp => ⟨h.fsCounter, h.fsStep, h.fsLast, h.length1, h.length2, h.length3, h.length4, h.envelope1,
    h.envelope2, h.envelope4, h.sweep, mask7F v, h.nr14, h.nr24, h.nr34, h.nr44, h.wave, by simp [hp], h.sampleCtr, h.ftimers⟩

theorem ApuInv.writeNrc1 (c : Channel) (v : Byte) (h : ApuInv period a) : ApuInv period (a.writeNrc1 c v) := by
  have l1 := lengthLoad64_le v
  have l2 := lengthLoad256_le v
  refine h.ifPower fun hp => ?_
  cases c
  · exact ⟨h.fsCounter, h.fsStep, h.fsLast, l1, h.length2, h.length3, h.length4, h.envelope1, h.envelope2,
      h.envelope4, h.sweep, h.nr10, h.nr14, h.nr24, h.nr34, h.nr44, h.wave, by simp [hp], h.sampleCtr, h.ftimers⟩
  · exact ⟨h.fsCounter, h.fsStep, h.fsLast, h.length1, l1, h.length3, h.length4, h.envelope1, h.envelope2,
      h.envelope4, h.sweep, h.nr10, h.nr14, h.nr24, h.nr34, h.nr44, h.wave, by simp [hp], h.sampleCtr, h.ftimers⟩
  · exact ⟨h.fsCounter, h.fsStep, h.fsLast, h.length1, h.length2, l2, h.length4, h.envelope1, h.envelope2,
      h.envelope4, h.sweep, h.nr10, h.nr14, h.nr24, h.nr34, h.nr44, h.wave, by simp [hp], h.sampleCtr, h.ftimers⟩
  · exact ⟨h.fsCounter, h.fsStep, h.fsLast, h.length1, h.length2, h.length3, l1, h.envelope1, h.envelope2,
      h.envelope4, h.sweep, h.nr10, h.nr14, h.nr24, h.nr34, h.nr44, h.wave, by simp [hp], h.sampleCtr, h.ftimers⟩

theorem ApuInv.writeDacReg (c : Channel) (v : Byte) (h : ApuInv period a) : ApuInv period (a.writeDacReg c v) := by
  refine h.ifPower fun hp => ApuInv.dacGate c ?_
  cases c <;>
    exact ⟨h.fsCounter, h.fsStep, h.fsLast, h.length1, h.length2, h.length3, h.length4, h.envelope1, h.envelope2,
      h.envelope4, h.sweep, h.nr10, h.nr14, h.nr24, h.nr34, h.nr44, h.wave, by simp [hp], h.sampleCtr, h.ftimers⟩

theorem ApuInv.writeNrc3 (c : Channel) (v : Byte) (h : ApuInv period a) : ApuInv period (a.writeNrc3 c v) := by
  refine h.ifPower fun hp => ?_
  cases c <;>
    exact ⟨h.fsCounter, h.fsStep, h.fsLast, h.length1, h.length2, h.length3, h.length4, h.envelope1, h.envelope2,
      h.envelope4, h.sweep, h.nr10, h.nr14, h.nr24, h.nr34, h.nr44, h.wave, by simp [hp], h.sampleCtr, h.ftimers⟩

theorem ApuInv.writeNr32 (v : Byte) (h : ApuInv period a) : ApuInv period (a.writeNr32 v) :=
  h.ifPower fun hp => ⟨h.fsCounter, h.fsStep, h.fsLast, h.length1, h.length2, h.length3, h.length4, h.envelope1,
    h.envelope2, h.envelope4, h.sweep, h.nr10, h.nr14, h.nr24, h.nr34, h.nr44, h.wave, by simp [hp], h.sampleCtr, h.ftimers⟩

theorem ApuInv.writeNr50 (v : Byte) (h : ApuInv period a) : ApuInv period (a.writeNr50 v) :=
  h.ifPower fun hp => ⟨h.fsCounter, h.fsStep, h.fsLast, h.length1, h.length2, h.length3, h.length4, h.envelope1,
    h.envelope2, h.envelope4, h.sweep, h.nr10, h.nr14, h.nr24, h.nr34, h.nr44, h.wave, by simp [hp], h.sampleCtr, h.ftimers⟩

theorem ApuInv.writeNr51 (v : Byte) (h : ApuInv period a) : ApuInv period (a.writeNr51 v) :=
  h.ifPower fun hp => ⟨h.fsCounter, h.fsStep, h.fsLast, h.length1, h.length2, h.length3, h.length4, h.envelope1,
    h.envelope2, h.envelope4, h.sweep, h.nr10, h.nr14, h.nr24, h.nr34, h.nr44, h.wave, by simp [hp], h.sampleCtr, h.ftimers⟩

theorem ApuInv.writeNr52 (v : Byte) (h : ApuInv period a) : ApuInv period (a.writeNr52 v) := by
  simp only [Apu.writeNr52]
  split
  · refine ⟨h.fsCounter, h.fsStep, h.fsLast, ?_, ?_, ?_, ?_, ?_, ?_, ?_, ?_, ?_, ?_, ?_, ?_, ?_, h.wave, fun _ => ?_,
      h.sampleCtr, h.ftimers⟩ <;> simp [Apu.powerOff, Apu.registers]
  · split
    · exact ⟨h.fsCounter, h.fsStep, h.fsLast, h.length1, h.length2, h.length3, h.length4, h.envelope1,
        h.envelope2, h.envelope4, h.sweep, h.nr10, h.nr14, h.nr24, h.nr34, h.nr44, h.wave, by simp, h.sampleCtr, h.ftimers⟩
    · exact h

theorem ApuInv.storeNrc4 (c : Channel) (v : Byte) (hp : a.power = true) (h : ApuInv period a) :
    ApuInv period (a.storeNrc4 c v) := by
  have m := mask47 v
  cases c
  · exact ⟨h.fsCounter, h.fsStep, h.fsLast, h.length1, h.length2, h.length3, h.length4, h.envelope1, h.envelope2,
      h.envelope4, h.sweep, h.nr10, m, h.nr24, h.nr34, h.nr44, h.wave, by simp [Apu.storeNrc4, hp], h.sampleCtr, h.ftimers⟩
  · exact ⟨h.fsCounter, h.fsStep, h.fsLast, h.length1, h.length2, h.length3, h.length4, h.envelope1, h.envelope2,
      h.envelope4, h.sweep, h.nr10, h.nr14, m, h.nr34, h.nr44, h.wave, by simp [Apu.storeNrc4, hp], h.sampleCtr, h.ftimers⟩
  · exact ⟨h.fsCounter, h.fsStep, h.fsLast, h.length1, h.length2, h.length3, h.length4, h.envelope1, h.envelope2,
      h.envelope4, h.sweep, h.nr10, h.nr14, h.nr24, m, h.nr44, h.wave, by simp [Apu.storeNrc4, hp], h.sampleCtr, h.ftimers⟩
  · exact ⟨h.fsCounter, h.fsStep, h.fsLast, h.length1, h.length2, h.length3, h.length4, h.envelope1, h.envelope2,
      h.envelope4, h.sweep, h.nr10, h.nr14, h.nr24, h.nr34, m, h.wave, by simp [Apu.storeNrc4, hp], h.sampleCtr, h.ftimers⟩

theorem Apu.storeNrc4_power (c : Channel) (v : Byte) : (a.storeNrc4 c v).power = a.power := by cases c <;> rfl

theorem squareReload_le (nrc4 nrc3 : Byte) : squareReload nrc4 nrc3 ≤ 8192 := by
  simp only [squareReload]
  omega

theorem waveReload_le (nr34 nr33 : Byte) : waveReload nr34 nr33 ≤ 4096 := by
  simp only [waveReload]
  omega

theorem SquareGen.tick_le {n reload : Nat} {g : SquareGen} (hr : reload ≤ n) (h : g.ftimer ≤ n) :
    (g.tick reload).ftimer ≤ n := by
  simp only [SquareGen.tick]
  split
  · exact hr
  · exact Nat.le_trans (Nat.sub_le _ _) h

theorem WaveGen.tick_le {n reload : Nat} {table : List Byte} {g : WaveGen} (hr : reload ≤ n) (h : g.ftimer ≤ n) :
    (g.tick reload table).ftimer ≤ n := by
  simp only [WaveGen.tick]
  split
  · exact hr
  · exact Nat.le_trans (Nat.sub_le _ _) h

/-- Of the invariant, what a generator's tick or trigger must keep is the timers' bounds. -/
theorem ApuInv.setGenerators {g1 g2 : SquareGen} {g3 : WaveGen} {g4 : NoiseGen} {g : GenTokens}
    (hf : g1.ftimer ≤ 8192 ∧ g2.ftimer ≤ 8192 ∧ g3.ftimer ≤ 4096) (h : ApuInv period a) :
    ApuInv period { a with g1 := g1, g2 := g2, g3 := g3, g4 := g4, supplied := g } :=
  ⟨h.fsCounter, h.fsStep, h.fsLast, h.length1, h.length2, h.length3, h.length4, h.envelope1, h.envelope2,
    h.envelope4, h.sweep, h.nr10, h.nr14, h.nr24, h.nr34, h.nr44, h.wave, h.off, h.sampleCtr, hf⟩

theorem ApuInv.genStep (src : GenSource) (draw : Nat) (c : Channel) (h : ApuInv period a) :
    ApuInv period (a.genStep src draw c) := by
  obtain ⟨h1, h2, h3⟩ := h.ftimers
  cases src
  · cases c
    · exact h.setGenerators ⟨SquareGen.tick_le (squareReload_le _ _) h1, h2, h3⟩
    · exact h.setGenerators ⟨h1, SquareGen.tick_le (squareReload_le _ _) h2, h3⟩
    · exact h.setGenerators ⟨h1, h2, WaveGen.tick_le (waveReload_le _ _) h3⟩
    · exact h.setGenerators h.ftimers
  · exact h.setGenerators h.ftimers

theorem ApuInv.genTrigger (src : GenSource) (draw : Nat) (c : Channel) (h : ApuInv period a) :
    ApuInv period (a.genTrigger src draw c) := by
  obtain ⟨h1, h2, h3⟩ := h.ftimers
  cases src
  · cases c
    · exact h.setGenerators ⟨squareReload_le _ _, h2, h3⟩
    · exact h.setGenerators ⟨h1, squareReload_le _ _, h3⟩
    · exact h.setGenerators ⟨h1, h2, waveReload_le _ _⟩
    · exact h.setGenerators h.ftimers
  · exact h.setGenerators h.ftimers

theorem ApuInv.sweepTrigger (h : ApuInv period a) : ApuInv period a.sweepTrigger := by
  have h' : ApuInv period { a with sweep :=
      { shadow := freqOf a.nr14 a.nr13
        timer := periodOr8 (sweepPeriod a.nr10)
        on := sweepPeriod a.nr10 != 0 || sweepShift a.nr10 != 0 } } :=
    ⟨h.fsCounter, h.fsStep, h.fsLast, h.length1, h.length2, h.length3, h.length4, h.envelope1, h.envelope2,
      h.envelope4, periodOr8_sweep_le _, h.nr10, h.nr14, h.nr24, h.nr34, h.nr44, h.wave, h.off, h.sampleCtr, h.ftimers⟩
  simp only [Apu.sweepTrigger]
  split
  · exact h'.disable .ch1
  · exact h'

theorem ApuInv.triggerUnits (c : Channel) (hp : a.power = true) (h : ApuInv period a) :
    ApuInv period (a.triggerUnits c) := by
  cases c
  · refine ApuInv.sweepTrigger ⟨h.fsCounter, h.fsStep, h.fsLast, Chan.trigger_le _ h.length1, h.length2, h.length3,
      h.length4, periodOr8_le _, h.envelope2, h.envelope4, h.sweep, h.nr10, h.nr14, h.nr24, h.nr34, h.nr44, h.wave, ?_,
      h.sampleCtr, h.ftimers⟩
    simp [Apu.setChan, hp]
  · refine ⟨h.fsCounter, h.fsStep, h.fsLast, h.length1, Chan.trigger_le _ h.length2, h.length3,
      h.length4, h.envelope1, periodOr8_le _, h.envelope4, h.sweep, h.nr10, h.nr14, h.nr24, h.nr34, h.nr44, h.wave, ?_,
      h.sampleCtr, h.ftimers⟩
    simp [Apu.triggerUnits, Apu.setChan, hp]
  · refine ⟨h.fsCounter, h.fsStep, h.fsLast, h.length1, h.length2, Chan.trigger_le _ h.length3,
      h.length4, h.envelope1, h.envelope2, h.envelope4, h.sweep, h.nr10, h.nr14, h.nr24, h.nr34, h.nr44, h.wave, ?_,
      h.sampleCtr, h.ftimers⟩
    simp [Apu.triggerUnits, Apu.setChan, hp]
  · refine ⟨h.fsCounter, h.fsStep, h.fsLast, h.length1, h.length2, h.length3,
      Chan.trigger_le _ h.length4, h.envelope1, h.envelope2, periodOr8_le _, h.sweep, h.nr10, h.nr14, h.nr24, h.nr34,
      h.nr44, h.wave, ?_, h.sampleCtr, h.ftimers⟩
    simp [Apu.triggerUnits, Apu.setChan, hp]

theorem ApuInv.writeNrc4 (src : GenSource) (draw : Nat) (c : Channel) (v : Byte) (h : ApuInv period a) :
    ApuInv period (a.writeNrc4 src draw c v) := by
  refine h.ifPower fun hp => ?_
  have hs := h.storeNrc4 c v hp
  split
  · exact ((hs.triggerUnits c (by rw [Apu.storeNrc4_power, hp])).genTrigger src draw c).dacGate c
  · exact hs

theorem ApuInv.sweepStore (n : BitVec 11) (hp : a.power = true) (h : ApuInv period a) :
    ApuInv period (a.sweepStore n) :=
  ⟨h.fsCounter, h.fsStep, h.fsLast, h.length1, h.length2, h.length3, h.length4, h.envelope1, h.envelope2,
    h.envelope4, h.sweep, h.nr10, sweepStore_mask _ n h.nr14, h.nr24, h.nr34, h.nr44, h.wave,
    by simp [Apu.sweepStore, hp], h.sampleCtr, h.ftimers⟩

theorem ApuInv.sweepCompute (b : Bool) (hp : a.power = true) (h : ApuInv period a) :
    ApuInv period (a.sweepCompute b) := by
  simp only [Apu.sweepCompute]
  split
  · exact h.disable .ch1
  · split
    · split
      · exact (h.sweepStore _ hp).disable .ch1
      · exact h.sweepStore _ hp
    · exact h

theorem ApuInv.sweepClock (b : Bool) (h : ApuInv period a) : ApuInv period (a.sweepClock b) := by
  have h' (n : Nat) (hn : n ≤ 8) : ApuInv period { a with sweep := { a.sweep with timer := n } } :=
    ⟨h.fsCounter, h.fsStep, h.fsLast, h.length1, h.length2, h.length3, h.length4, h.envelope1, h.envelope2,
      h.envelope4, hn, h.nr10, h.nr14, h.nr24, h.nr34, h.nr44, h.wave, h.off, h.sampleCtr, h.ftimers⟩
  simp only [Apu.sweepClock]
  split
  · split
    · next hc =>
      refine ApuInv.sweepCompute b ?_ (h' _ (periodOr8_sweep_le _))
      by_contra hp
      have h0 := (h.off (by simpa using hp)).1 a.nr10 (by simp [Apu.registers])
      simp [h0, sweepPeriod] at hc
    · exact h' _ (periodOr8_sweep_le _)
  · exact h' _ (Nat.le_trans (Nat.sub_le _ _) h.sweep)

theorem ApuInv.lengthClocks (h : ApuInv period a) : ApuInv period a.lengthClocks :=
  ⟨h.fsCounter, h.fsStep, h.fsLast, Chan.lengthClock_le h.length1, Chan.lengthClock_le h.length2,
    Chan.lengthClock_le h.length3, Chan.lengthClock_le h.length4, h.envelope1, h.envelope2,
    h.envelope4, h.sweep, h.nr10, h.nr14, h.nr24, h.nr34, h.nr44, h.wave,
    fun hp => ⟨(h.off hp).1, Chan.lengthClock_disabled (h.off hp).2.1, Chan.lengthClock_disabled (h.off hp).2.2.1,
      Chan.lengthClock_disabled (h.off hp).2.2.2.1, Chan.lengthClock_disabled (h.off hp).2.2.2.2⟩, h.sampleCtr, h.ftimers⟩

theorem ApuInv.envelopeClocks (h : ApuInv period a) : ApuInv period a.envelopeClocks :=
  ⟨h.fsCounter, h.fsStep, h.fsLast, h.length1, h.length2, h.length3, h.length4,
    Envelope.clock_timer_le _ h.envelope1, Envelope.clock_timer_le _ h.envelope2, Envelope.clock_timer_le _ h.envelope4,
    h.sweep, h.nr10, h.nr14, h.nr24, h.nr34, h.nr44, h.wave, h.off, h.sampleCtr, h.ftimers⟩

theorem ApuInv.frameStep (b : Bool) (h : ApuInv period a) : ApuInv period (a.frameStep b) := by
  have h1 : ApuInv period (if lenMask.getLsbD a.fsStep then a.lengthClocks else a) := by
    split
    · exact h.lengthClocks
    · exact h
  have h2 : ∀ {x : Apu}, ApuInv period x →
      ApuInv period (if sweepMask.getLsbD a.fsStep then x.sweepClock b else x) := by
    intro x hx
    split
    · exact hx.sweepClock b
    · exact hx
  have h3 : ∀ {x : Apu}, ApuInv period x →
      ApuInv period (if envMask.getLsbD a.fsStep then x.envelopeClocks else x) := by
    intro x hx
    split
    · exact hx.envelopeClocks
    · exact hx
  have h4 := h3 (h2 h1)
  exact ⟨h4.fsCounter, Nat.mod_lt _ (by decide), by rintro n ⟨⟩; exact h.fsStep, h4.length1, h4.length2, h4.length3, h4.length4,
    h4.envelope1, h4.envelope2, h4.envelope4, h4.sweep, h4.nr10, h4.nr14, h4.nr24, h4.nr34, h4.nr44, h4.wave, h4.off,
    h4.sampleCtr, h4.ftimers⟩

theorem ApuInv.sequencerTick (b : Bool) (h : ApuInv period a) : ApuInv period (a.sequencerTick b) := by
  have h' : ApuInv period { a with fsCounter := (a.fsCounter + 1) % 8192 } :=
    ⟨Nat.mod_lt _ (by decide), h.fsStep, h.fsLast, h.length1, h.length2, h.length3, h.length4, h.envelope1, h.envelope2,
      h.envelope4, h.sweep, h.nr10, h.nr14, h.nr24, h.nr34, h.nr44, h.wave, h.off, h.sampleCtr, h.ftimers⟩
  simp only [Apu.sequencerTick]
  split
  · exact h'.frameStep b
  · exact h'

theorem ApuInv.generatorTick (src : GenSource) (draw : Nat) (h : ApuInv period a) :
    ApuInv period (a.generatorTick src draw) :=
  (((h.genStep src draw .ch1).genStep src draw .ch2).genStep src draw .ch3).genStep src draw .ch4

theorem ApuInv.setSampleCtr {n : Nat} (hn : 1 ≤ n ∧ n ≤ period.val) (h : ApuInv period a) :
    ApuInv period { a with sampleCtr := n } :=
  ⟨h.fsCounter, h.fsStep, h.fsLast, h.length1, h.length2, h.length3, h.length4, h.envelope1, h.envelope2,
    h.envelope4, h.sweep, h.nr10, h.nr14, h.nr24, h.nr34, h.nr44, h.wave, h.off, hn, h.ftimers⟩

end

/-! What a tick of the APU can change. -/

/-- What a sweep clock can change (R381). -/
theorem Apu.sweepClock_frame (b : Bool) (a : Apu) : ∃ c1 sweep nr13 nr14,
    a.sweepClock b = { a with c1 := c1, sweep := sweep, nr13 := nr13, nr14 := nr14 } := by
  have hc : ∀ x : Apu, ∃ c1 sweep nr13 nr14,
      x.sweepCompute b = { x with c1 := c1, sweep := sweep, nr13 := nr13, nr14 := nr14 } := by
    intro x
    simp only [Apu.sweepCompute]
    split
    · exact ⟨_, x.sweep, x.nr13, x.nr14, rfl⟩
    · split
      · split <;> exact ⟨_, _, _, _, rfl⟩
      · exact ⟨x.c1, x.sweep, x.nr13, x.nr14, rfl⟩
  simp only [Apu.sweepClock]
  split
  · split
    · obtain ⟨c1, sweep, nr13, nr14, h⟩ := hc { a with sweep := { a.sweep with timer := periodOr8 (sweepPeriod a.nr10) } }
      exact ⟨c1, sweep, nr13, nr14, h⟩
    · exact ⟨a.c1, _, a.nr13, a.nr14, rfl⟩
  · exact ⟨a.c1, _, a.nr13, a.nr14, rfl⟩

/-- What a step of the frame sequencer can change (R362): of the registers NR13 and NR14 only. -/
theorem Apu.frameStep_frame (b : Bool) (a : Apu) : ∃ nr13 nr14 fsStep fsLast c1 c2 c3 c4 e1 e2 e4 sweep,
    a.frameStep b = { a with
      nr13 := nr13, nr14 := nr14, fsStep := fsStep, fsLast := fsLast, c1 := c1, c2 := c2, c3 := c3, c4 := c4, e1 := e1,
      e2 := e2, e4 := e4, sweep := sweep } := by
  have hl : ∃ c1 c2 c3 c4, (if lenMask.getLsbD a.fsStep then a.lengthClocks else a)
      = { a with c1 := c1, c2 := c2, c3 := c3, c4 := c4 } := by
    split
    · exact ⟨_, _, _, _, rfl⟩
    · exact ⟨a.c1, a.c2, a.c3, a.c4, rfl⟩
  have hs : ∀ x : Apu, ∃ c1 sweep nr13 nr14, (if sweepMask.getLsbD a.fsStep then x.sweepClock b else x)
      = { x with c1 := c1, sweep := sweep, nr13 := nr13, nr14 := nr14 } := by
    intro x
    split
    · exact x.sweepClock_frame b
    · exact ⟨x.c1, x.sweep, x.nr13, x.nr14, rfl⟩
  have he : ∀ x : Apu, ∃ e1 e2 e4, (if envMask.getLsbD a.fsStep then x.envelopeClocks else x)
      = { x with e1 := e1, e2 := e2, e4 := e4 } := by
    intro x
    split
    · exact ⟨_, _, _, rfl⟩
    · exact ⟨x.e1, x.e2, x.e4, rfl⟩
  obtain ⟨_, _, _, _, h1⟩ := hl
  obtain ⟨_, _, _, _, h2⟩ := hs (if lenMask.getLsbD a.fsStep then a.lengthClocks else a)
  obtain ⟨_, _, _, h3⟩ := he (if sweepMask.getLsbD a.fsStep
    then (if lenMask.getLsbD a.fsStep then a.lengthClocks else a).sweepClock b
    else if lenMask.getLsbD a.fsStep then a.lengthClocks else a)
  simp only [Apu.frameStep]
  rw [h3, h2, h1]
  exact ⟨_, _, _, _, _, _, _, _, _, _, _, _, rfl⟩

/-- What a tick of the frame sequencer can change (R361): beside its own counter, what a step can. -/
theorem Apu.sequencerTick_frame (b : Bool) (a : Apu) : ∃ nr13 nr14 fsStep fsLast c1 c2 c3 c4 e1 e2 e4 sweep,
    a.sequencerTick b = { a with
      nr13 := nr13, nr14 := nr14, fsCounter := (a.fsCounter + 1) % 8192, fsStep := fsStep, fsLast := fsLast, c1 := c1,
      c2 := c2, c3 := c3, c4 := c4, e1 := e1, e2 := e2, e4 := e4, sweep := sweep } := by
  simp only [Apu.sequencerTick]
  split
  · exact Apu.frameStep_frame b { a with fsCounter := (a.fsCounter + 1) % 8192 }
  · exact ⟨a.nr13, a.nr14, a.fsStep, a.fsLast, a.c1, a.c2, a.c3, a.c4, a.e1, a.e2, a.e4, a.sweep, rfl⟩

/-- A tick of supplied generators (R395): each writes its own state, as a function of what it may read. -/
theorem Apu.generatorTick_supplied (draw : Nat) (a : Apu) : a.generatorTick .supplied draw = { a with
    supplied :=
      (let step := fun c => Config.genStep c (a.regs c) (a.vol c) (a.waveTable draw) (a.supplied.token c)
       ⟨step .ch1, step .ch2, step .ch3, step .ch4⟩) } := by
  simp only [Apu.generatorTick, Apu.genStep, GenTokens.set, GenTokens.token, Apu.regs, Apu.vol, Apu.waveTable]

/-- A tick of the default generators (R396 to R398). -/
theorem Apu.generatorTick_standard (draw : Nat) (a : Apu) : a.generatorTick .standard draw = { a with
    g1 := a.g1.tick (squareReload a.nr14 a.nr13)
    g2 := a.g2.tick (squareReload a.nr24 a.nr23)
    g3 := a.g3.tick (waveReload a.nr34 a.nr33) (a.waveTable draw)
    g4 := a.g4.tick a.nr43 } := by
  simp only [Apu.generatorTick, Apu.genStep, Apu.waveTable]

/-- The mixer's part of a tick changes the sample counter and the output trace (R410). -/
theorem mixerTick_frame (s : State) : ∃ n tr, mixerTick s = (s.setApu { s.apu with sampleCtr := n }).setTrace tr := by
  simp only [mixerTick]
  split
  · exact ⟨_, _, rfl⟩
  · exact ⟨s.apu.sampleCtr - 1, s.trace, rfl⟩

end Sys2Proof.Machine
end

