-- ==== Sys2Proof/Laws/Invariants.lean ====
section
/-! SUPPORT. Every operation of the machine keeps the invariant of Safety.lean: one lemma for each shared operation. -/

namespace Sys2Proof.Machine

/-! The PPU's updates that also touch other units. -/

theorem PpuInv.setStatLine {p : Ppu} (b : Bool) (h : PpuInv p) : PpuInv { p with statLine := b } :=
  h.of_eq rfl rfl rfl rfl rfl rfl rfl rfl rfl rfl rfl rfl rfl rfl rfl rfl rfl

theorem PpuInv.updateStatLine {s : State} (h : PpuInv s.ppu) : PpuInv (updateStatLine s).ppu := by
  rw [updateStatLine_ppu]
  exact h.setStatLine _

theorem PpuInv.writeLcdc {s : State} (v : Byte) (h : PpuInv s.ppu) : PpuInv (writeLcdc v s).ppu := by
  simp only [Machine.writeLcdc]
  split
  · exact PpuInv.updateStatLine (s := s.setPpu _) h.lcdOff
  · next hc =>
    simp only [Bool.and_eq_true, Bool.not_eq_true', not_and, Bool.not_eq_false] at hc
    split
    · next hd =>
      simp only [Bool.and_eq_true, Bool.not_eq_true'] at hd
      exact PpuInv.updateStatLine (s := s.setPpu _) (h.lcdOn hd.2 hd.1)
    · next hd =>
      simp only [Bool.and_eq_true, Bool.not_eq_true', not_and, Bool.not_eq_true] at hd
      refine h.setLcdc ?_
      cases he : s.ppu.lcdEnabled
      · exact hd he
      · exact hc he

theorem lineEnd_frame (s : State) :
    (lineEnd s).cfg = s.cfg ∧ (lineEnd s).bus = s.bus ∧ (lineEnd s).dma = s.dma ∧ (lineEnd s).hdma = s.hdma ∧
    (lineEnd s).timer = s.timer ∧ (lineEnd s).apu = s.apu ∧ (lineEnd s).halfPhase = s.halfPhase ∧
    (lineEnd s).ext = s.ext ∧ (lineEnd s).fault = s.fault ∧ (lineEnd s).draws = s.draws ∧
    (lineEnd s).pending = s.pending ∧ (lineEnd s).rdata = s.rdata := by
  simp only [lineEnd]
  split
  · simp
  · split <;> simp

/-- The CPU after the end of a line: interrupt 0 may be requested. -/
theorem lineEnd_cpu (s : State) : ∃ ifr, (lineEnd s).cpu = { s.cpu with ifr := ifr } := by
  simp only [lineEnd]
  split
  · exact ⟨_, rfl⟩
  · split <;> exact ⟨_, rfl⟩

/-- A dot touches the PPU, the output trace and IF, and nothing else. -/
theorem tickPpu_frame (s : State) :
    (tickPpu s).cfg = s.cfg ∧ (tickPpu s).bus = s.bus ∧ (tickPpu s).dma = s.dma ∧ (tickPpu s).hdma = s.hdma ∧
    (tickPpu s).timer = s.timer ∧ (tickPpu s).apu = s.apu ∧ (tickPpu s).halfPhase = s.halfPhase ∧
    (tickPpu s).ext = s.ext ∧ (tickPpu s).fault = s.fault ∧ (tickPpu s).draws = s.draws ∧
    (tickPpu s).pending = s.pending ∧ (tickPpu s).rdata = s.rdata := by
  simp only [tickPpu]
  split
  · split
    · simp [lineEnd_frame]
    · simp
  · simp

/-- A dot writes no register and no memory of the PPU (R183). -/
theorem tickPpu_programmed (s : State) : (tickPpu s).ppu.programmed = s.ppu.programmed := by
  simp only [tickPpu]
  split
  · simp only [updateStatLine_ppu]
    split
    · simp only [lineEnd]
      repeat' split
      all_goals exact s.ppu.dot_programmed _
    · exact s.ppu.dot_programmed _
  · rfl

theorem tickPpu_cpu (s : State) : ∃ ifr, (tickPpu s).cpu = { s.cpu with ifr := ifr } := by
  simp only [tickPpu]
  split
  · rw [updateStatLine_cpu]
    split
    · obtain ⟨i, hi⟩ := lineEnd_cpu (s.setPpu (s.ppu.dot s.ppuEnv))
      rw [hi]
      exact ⟨_, rfl⟩
    · exact ⟨_, rfl⟩
  · exact ⟨_, rfl⟩

theorem PpuInv.tick {s : State} (h : PpuInv s.ppu) : PpuInv (tickPpu s).ppu := by
  simp only [tickPpu]
  split
  · next he =>
    have hd := (h.toDot he).dot s.ppuEnv h.lineTicks h.transfer
    refine PpuInv.updateStatLine ?_
    split
    · exact PpuInv.lineEnd (s := s.setPpu _) hd.1
    · next hl => exact hd.1.toInv (Nat.lt_of_le_of_ne hd.1.lineTicks hl) hd.2
  · exact h

/-! The Timer's, the serial device's and the APU's ticks. -/

theorem tickTimer_frame (s : State) :
    (tickTimer s).cfg = s.cfg ∧ (tickTimer s).bus = s.bus ∧ (tickTimer s).ppu = s.ppu ∧ (tickTimer s).dma = s.dma ∧
    (tickTimer s).hdma = s.hdma ∧ (tickTimer s).apu = s.apu ∧ (tickTimer s).halfPhase = s.halfPhase ∧
    (tickTimer s).ext = s.ext ∧ (tickTimer s).fault = s.fault ∧ (tickTimer s).draws = s.draws ∧
    (tickTimer s).pending = s.pending ∧ (tickTimer s).rdata = s.rdata ∧ (tickTimer s).trace = s.trace := by
  simp only [tickTimer]
  split <;> simp

theorem tickTimer_cpu (s : State) : ∃ ifr, (tickTimer s).cpu = { s.cpu with ifr := ifr } := by
  simp only [tickTimer]
  split <;> exact ⟨_, rfl⟩

theorem tickTimer_timer (s : State) :
    (tickTimer s).timer = (s.timer.reloadStep s.cfg.timaReloadHold).1.countStep s.cfg.timaReloadHold := by
  simp only [tickTimer]
  split <;> rfl

theorem tickSerial_frame (s : State) :
    (tickSerial s).cfg = s.cfg ∧ (tickSerial s).bus = s.bus ∧ (tickSerial s).ppu = s.ppu ∧
    (tickSerial s).dma = s.dma ∧ (tickSerial s).hdma = s.hdma ∧ (tickSerial s).timer = s.timer ∧
    (tickSerial s).apu = s.apu ∧ (tickSerial s).halfPhase = s.halfPhase ∧ (tickSerial s).fault = s.fault ∧
    (tickSerial s).draws = s.draws ∧ (tickSerial s).pending = s.pending ∧ (tickSerial s).rdata = s.rdata ∧
    (tickSerial s).trace = s.trace ∧ (tickSerial s).ext.wram = s.ext.wram ∧ (tickSerial s).ext.hram = s.ext.hram := by
  simp only [tickSerial, setOpaqueToken]
  split
  · split <;> simp
  · simp

theorem tickSerial_cpu (s : State) : ∃ ifr, (tickSerial s).cpu = { s.cpu with ifr := ifr } := by
  simp only [tickSerial, setOpaqueToken]
  split
  · split <;> exact ⟨_, rfl⟩
  · exact ⟨_, rfl⟩

/-- A tick of the APU touches the APU and the output trace, and nothing else. -/
theorem tickApu_frame (s : State) :
    (tickApu s).cfg = s.cfg ∧ (tickApu s).bus = s.bus ∧ (tickApu s).ppu = s.ppu ∧ (tickApu s).dma = s.dma ∧
    (tickApu s).hdma = s.hdma ∧ (tickApu s).timer = s.timer ∧ (tickApu s).halfPhase = s.halfPhase ∧
    (tickApu s).cpu = s.cpu ∧ (tickApu s).ext = s.ext ∧ (tickApu s).fault = s.fault ∧ (tickApu s).draws = s.draws ∧
    (tickApu s).pending = s.pending ∧ (tickApu s).rdata = s.rdata := by
  simp only [tickApu, mixerTick]
  split <;> simp

theorem ApuInv.tick {s : State} (h : ApuInv s.cfg.samplePeriod s.apu) : ApuInv s.cfg.samplePeriod (tickApu s).apu := by
  have h' := (h.sequencerTick s.cfg.sweepSecondCheck).generatorTick s.cfg.gen s.draws
  simp only [tickApu, mixerTick]
  split
  · exact h'.setSampleCtr ⟨s.cfg.samplePeriod.property, Nat.le_refl _⟩
  · next hn =>
    refine h'.setSampleCtr ?_
    have := h'.sampleCtr
    simp only [State.setApu_apu] at hn ⊢
    omega

/-! Writes of the bus. -/

theorem wramBankOf_le (m : HwMode) (b : Byte) : wramBankOf m b ≤ 7 := by
  have := (b.extractLsb' 0 3).isLt
  cases m
  · simp [wramBankOf]
  · simp only [wramBankOf]; split <;> omega

theorem wramCell_lt (m : HwMode) (b : Byte) {off : Nat} (h : off < 0x2000) : wramCell m b off < 0x8000 := by
  have := wramBankOf_le m b
  simp only [wramCell]
  split
  · omega
  · have : 0x1000 * wramBankOf m b ≤ 0x7000 := by omega
    omega

/-- What a bus write can do to the OAM DMA engine: nothing, or start it. -/
theorem writePlace_dma (p : Place) (off : Nat) (a : Addr) (v : Byte) (hb : Bool) (s : State) :
    (writePlace p off a v hb s).dma = s.dma ∨ (writePlace p off a v hb s).dma = s.dma.start v := by
  cases p
  case vram => left; simp only [writePlace]; split <;> simp
  case oam => left; simp only [writePlace]; split <;> simp
  case lcdc =>
    left
    simp only [writePlace, writeLcdc]
    split
    · simp
    · split <;> simp
  case stat => left; simp [writePlace, writeStat]
  case lyc => left; simp [writePlace, writeLyc]
  case dma =>
    right
    simp only [writePlace, writeDma]
    split
    · simp [releaseSource_srcSeg, Dma.start]
    · simp
  all_goals left; simp [writePlace, writeOpaque, setOpaqueToken, writeWram, writeHram]

theorem busWrite_dma (a : Addr) (v : Byte) (hb : Bool) (s : State) :
    (busWrite a v hb s).dma = s.dma ∨ (busWrite a v hb s).dma = s.dma.start v := by
  obtain h | ⟨p, off, _, _, h⟩ := busWrite_cases a v hb s
  · exact .inl (by rw [h])
  · rw [h]; exact writePlace_dma p off a v hb s

theorem writePlace_ppuInv {s : State} (p : Place) {off : Nat} (a : Addr) (v : Byte) (hb : Bool) (ho : off < p.size)
    (h : PpuInv s.ppu) : PpuInv (writePlace p off a v hb s).ppu := by
  cases p
  case vram =>
    simp only [writePlace]
    split
    · exact h
    · exact h.writeVram v ho
  case oam =>
    simp only [writePlace]
    split
    · exact h
    · exact h.writeOam v ho
  case lcdc => exact h.writeLcdc v
  case stat =>
    exact PpuInv.updateStatLine (s := s.setPpu _)
      (h.of_eq rfl rfl rfl rfl rfl rfl rfl rfl rfl rfl rfl rfl rfl rfl rfl rfl rfl)
  case lyc =>
    exact PpuInv.updateStatLine (s := s.setPpu _)
      (h.of_eq rfl rfl rfl rfl rfl rfl rfl rfl rfl rfl rfl rfl rfl rfl rfl rfl rfl)
  case bcps => exact h.setBcps v
  case ocps => exact h.setOcps v
  case bcpd => exact h.writeBcpd v
  case ocpd => exact h.writeOcpd v
  case dma =>
    simp only [writePlace, writeDma]
    split <;> simpa using h
  all_goals
    first
    | exact h
    | exact h.of_eq rfl rfl rfl rfl rfl rfl rfl rfl rfl rfl rfl rfl rfl rfl rfl rfl rfl

theorem writePlace_timerInv {s : State} (p : Place) (off : Nat) (a : Addr) (v : Byte) (hb : Bool)
    (h : TimerInv s.cfg.timaReloadHold s.timer) : TimerInv s.cfg.timaReloadHold (writePlace p off a v hb s).timer := by
  cases p
  case div => exact h.writeDiv
  case tima => exact h.writeTima v
  case tma => exact h.writeTma _ v
  case tac => exact h.writeTac v
  case vram => simp only [writePlace]; split <;> exact h
  case oam => simp only [writePlace]; split <;> exact h
  case lcdc =>
    simp only [writePlace, writeLcdc]
    split
    · simpa using h
    · split <;> simpa using h
  case stat => simpa [writePlace, writeStat] using h
  case lyc => simpa [writePlace, writeLyc] using h
  case dma =>
    simp only [writePlace, writeDma]
    split <;> simpa using h
  all_goals exact h

theorem writePlace_hdmaInv {s : State} (p : Place) (off : Nat) (a : Addr) (v : Byte) (hb : Bool)
    (h : HdmaInv (s.cfg.base .vram) s.hdma) : HdmaInv (s.cfg.base .vram) (writePlace p off a v hb s).hdma := by
  cases p
  case hdma5 => exact h.writeControl _ v
  case vram => simp only [writePlace]; split <;> exact h
  case oam => simp only [writePlace]; split <;> exact h
  case lcdc =>
    simp only [writePlace, writeLcdc]
    split
    · simpa using h
    · split <;> simpa using h
  case stat => simpa [writePlace, writeStat] using h
  case lyc => simpa [writePlace, writeLyc] using h
  case dma =>
    simp only [writePlace, writeDma]
    split <;> simpa using h
  all_goals first | exact h | exact ⟨h.dst, h.remaining, h.idle⟩

theorem writePlace_apuInv {s : State} (p : Place) {off : Nat} (a : Addr) (v : Byte) (hb : Bool) (ho : off < p.size)
    (h : ApuInv s.cfg.samplePeriod s.apu) : ApuInv s.cfg.samplePeriod (writePlace p off a v hb s).apu := by
  cases p
  case wave => exact h.writeWave v ho
  case nr10 => exact h.writeNr10 v
  case nr11 => exact h.writeNrc1 .ch1 v
  case nr12 => exact h.writeDacReg .ch1 v
  case nr13 => exact h.writeNrc3 .ch1 v
  case nr14 => exact h.writeNrc4 _ _ .ch1 v
  case nr21 => exact h.writeNrc1 .ch2 v
  case nr22 => exact h.writeDacReg .ch2 v
  case nr23 => exact h.writeNrc3 .ch2 v
  case nr24 => exact h.writeNrc4 _ _ .ch2 v
  case nr30 => exact h.writeDacReg .ch3 v
  case nr31 => exact h.writeNrc1 .ch3 v
  case nr32 => exact h.writeNr32 v
  case nr33 => exact h.writeNrc3 .ch3 v
  case nr34 => exact h.writeNrc4 _ _ .ch3 v
  case nr41 => exact h.writeNrc1 .ch4 v
  case nr42 => exact h.writeDacReg .ch4 v
  case nr43 => exact h.writeNrc3 .ch4 v
  case nr44 => exact h.writeNrc4 _ _ .ch4 v
  case nr50 => exact h.writeNr50 v
  case nr51 => exact h.writeNr51 v
  case nr52 => exact h.writeNr52 v
  case vram => simp only [writePlace]; split <;> exact h
  case oam => simp only [writePlace]; split <;> exact h
  case lcdc =>
    simp only [writePlace, writeLcdc]
    split
    · simpa using h
    · split <;> simpa using h
  case stat => simpa [writePlace, writeStat] using h
  case lyc => simpa [writePlace, writeLyc] using h
  case dma =>
    simp only [writePlace, writeDma]
    split <;> simpa using h
  all_goals exact h

/-- What a write rule can do to the external handlers' memories. -/
theorem writePlace_extWf {s : State} (p : Place) {off : Nat} (a : Addr) (v : Byte) (hb : Bool) (ho : off < p.size)
    (h1 : Memory.wf 0x8000 s.ext.wram = true) (h2 : Memory.wf 0x7F s.ext.hram = true) :
    Memory.wf 0x8000 (writePlace p off a v hb s).ext.wram = true ∧
    Memory.wf 0x7F (writePlace p off a v hb s).ext.hram = true := by
  cases p
  case wramFixed =>
    exact ⟨Memory.wf_insert v (wramCell_lt _ _ (by simp only [Place.size] at ho; omega)) h1, h2⟩
  case wramBank =>
    exact ⟨Memory.wf_insert v (wramCell_lt _ _ (by simp only [Place.size] at ho; omega)) h1, h2⟩
  case wramEcho =>
    exact ⟨Memory.wf_insert v (wramCell_lt _ _ (by simp only [Place.size] at ho; omega)) h1, h2⟩
  case hram =>
    simp only [writePlace, writeHram]
    split
    · exact ⟨h1, Memory.wf_insert v ho h2⟩
    · exact ⟨h1, h2⟩
  case vram => simp only [writePlace]; split <;> exact ⟨h1, h2⟩
  case oam => simp only [writePlace]; split <;> exact ⟨h1, h2⟩
  case lcdc =>
    simp only [writePlace, writeLcdc]
    split
    · simp [h1, h2]
    · split <;> simp [h1, h2]
  case stat => simp [writePlace, writeStat, h1, h2]
  case lyc => simp [writePlace, writeLyc, h1, h2]
  case dma =>
    simp only [writePlace, writeDma]
    split <;> simp [h1, h2]
  all_goals exact ⟨h1, h2⟩

/-- The owner map's invariant speaks of the registered handlers and the configuration alone. -/
theorem BusInv.of_eq {s t : State} (h : BusInv s) (h1 : t.bus.registered = s.bus.registered) (h2 : t.cfg = s.cfg) :
    BusInv t := by
  constructor
  · simpa only [Bus.canonical, h1] using h.canonical
  · simpa only [State.claimsDisjoint, h1, h2] using h.disjoint

/-- The invariant of a state from that of its parts. -/
theorem Inv.of_parts {s t : State} (h : Inv s) (hc : t.cfg = s.cfg) (hb : t.bus.registered = s.bus.registered)
    (hp : PpuInv t.ppu) (ht : TimerInv s.cfg.timaReloadHold t.timer) (hd : DmaInv t.dma) (hh : HdmaInv (s.cfg.base .vram) t.hdma)
    (ha : ApuInv s.cfg.samplePeriod t.apu) (he : ExternalInv t) : Inv t :=
  ⟨h.bus.of_eq hb hc, hp, by rw [hc]; exact ht, hd, by rw [hc]; exact hh, by rw [hc]; exact ha, he⟩

theorem Inv.writePlace {s : State} (p : Place) {off : Nat} (a : Addr) (v : Byte) (hb : Bool) (ho : off < p.size)
    (h : Inv s) : Inv (writePlace p off a v hb s) := by
  have hf := writePlace_frame p off a v hb s
  have he := writePlace_extWf p a v hb ho h.external.wram h.external.hram
  refine h.of_parts hf.1 hf.2.2.2.2.2.2.2.1 (writePlace_ppuInv p a v hb ho h.ppu) (writePlace_timerInv p off a v hb h.timer)
    ?_ (writePlace_hdmaInv p off a v hb h.hdma) (writePlace_apuInv p a v hb ho h.apu) ⟨he.1, he.2, ?_⟩
  · obtain h1 | h1 := writePlace_dma p off a v hb s
    · rw [h1]; exact h.dma
    · rw [h1]; exact DmaInv.start v
  · obtain ⟨i, e, k, h1⟩ := writePlace_cpu p off a v hb s
    rw [h1]
    exact h.external.flags

theorem Inv.busWrite {s : State} (a : Addr) (v : Byte) (hb : Bool) (h : Inv s) : Inv (busWrite a v hb s) := by
  obtain h1 | ⟨p, off, _, ho, h1⟩ := busWrite_cases a v hb s
  · rw [h1]; exact h
  · rw [h1]; exact h.writePlace p a v hb ho

/-! Updates that leave the invariant's parts alone. -/

theorem Inv.setRdata {s : State} (b : Option Byte) (h : Inv s) : Inv (s.setRdata b) :=
  ⟨⟨h.bus.canonical, h.bus.disjoint⟩, h.ppu, h.timer, h.dma, h.hdma, h.apu, ⟨h.external.wram, h.external.hram, h.external.flags⟩⟩

theorem Inv.setPending {s : State} (q : List Input) (h : Inv s) : Inv (s.setPending q) :=
  ⟨⟨h.bus.canonical, h.bus.disjoint⟩, h.ppu, h.timer, h.dma, h.hdma, h.apu, ⟨h.external.wram, h.external.hram, h.external.flags⟩⟩

theorem Inv.setHalfPhase {s : State} (b : Bool) (h : Inv s) : Inv (s.setHalfPhase b) :=
  ⟨⟨h.bus.canonical, h.bus.disjoint⟩, h.ppu, h.timer, h.dma, h.hdma, h.apu, ⟨h.external.wram, h.external.hram, h.external.flags⟩⟩

theorem Inv.setFault {s : State} (f : Option Fault) (h : Inv s) : Inv (s.setFault f) :=
  ⟨⟨h.bus.canonical, h.bus.disjoint⟩, h.ppu, h.timer, h.dma, h.hdma, h.apu, ⟨h.external.wram, h.external.hram, h.external.flags⟩⟩

theorem Inv.setDma {s : State} {d : Dma} (hd : DmaInv d) (h : Inv s) : Inv (s.setDma d) :=
  ⟨⟨h.bus.canonical, h.bus.disjoint⟩, h.ppu, h.timer, hd, h.hdma, h.apu, ⟨h.external.wram, h.external.hram, h.external.flags⟩⟩

theorem Inv.setHdma {s : State} {d : Hdma} (hd : HdmaInv (s.cfg.base .vram) d) (h : Inv s) : Inv (s.setHdma d) :=
  ⟨⟨h.bus.canonical, h.bus.disjoint⟩, h.ppu, h.timer, h.dma, hd, h.apu, ⟨h.external.wram, h.external.hram, h.external.flags⟩⟩

/-- The CPU's registers may change, so the low nibble of the flags stays zero. -/
theorem Inv.setCpu {s : State} {c : Cpu} (hc : c.af &&& 0x000F#16 = 0#16) (h : Inv s) : Inv (s.setCpu c) :=
  ⟨⟨h.bus.canonical, h.bus.disjoint⟩, h.ppu, h.timer, h.dma, h.hdma, h.apu, ⟨h.external.wram, h.external.hram, hc⟩⟩

/-- The dispatcher's flags and its last DMA byte may change, the owner map not. -/
theorem Inv.setBus {s : State} {b : Bus} (hb : b.registered = s.bus.registered) (h : Inv s) : Inv (s.setBus b) :=
  ⟨h.bus.of_eq hb rfl, h.ppu, h.timer, h.dma, h.hdma, h.apu, ⟨h.external.wram, h.external.hram, h.external.flags⟩⟩

theorem Inv.setBlocked {s : State} (g : Segment) (v : Bool) (h : Inv s) : Inv (s.setBlocked g v) :=
  h.setBus (Bus.setBlocked_registered s.bus g v)

/-! The ticks. -/

theorem Inv.tickTimer {s : State} (h : Inv s) : Inv (tickTimer s) := by
  have hf := tickTimer_frame s
  obtain ⟨i, hi⟩ := tickTimer_cpu s
  refine h.of_parts hf.1 (by rw [hf.2.1]) (by rw [hf.2.2.1]; exact h.ppu) ?_ (by rw [hf.2.2.2.1]; exact h.dma)
    (by rw [hf.2.2.2.2.1]; exact h.hdma) (by rw [hf.2.2.2.2.2.1]; exact h.apu)
    ⟨by rw [hf.2.2.2.2.2.2.2.1]; exact h.external.wram, by rw [hf.2.2.2.2.2.2.2.1]; exact h.external.hram,
      by rw [hi]; exact h.external.flags⟩
  rw [tickTimer_timer]
  exact h.timer.tick

theorem Inv.tickSerial {s : State} (h : Inv s) : Inv (tickSerial s) := by
  obtain ⟨h1, h2, h3, h4, h5, h6, h7, -, -, -, -, -, -, h8, h9⟩ := tickSerial_frame s
  obtain ⟨i, hi⟩ := tickSerial_cpu s
  exact h.of_parts h1 (by rw [h2]) (by rw [h3]; exact h.ppu) (by rw [h6]; exact h.timer) (by rw [h4]; exact h.dma)
    (by rw [h5]; exact h.hdma) (by rw [h7]; exact h.apu)
    ⟨by rw [h8]; exact h.external.wram, by rw [h9]; exact h.external.hram, by rw [hi]; exact h.external.flags⟩

theorem Inv.tickPpu {s : State} (h : Inv s) : Inv (tickPpu s) := by
  obtain ⟨h1, h2, h3, h4, h5, h6, -, h7, -, -, -, -⟩ := tickPpu_frame s
  obtain ⟨i, hi⟩ := tickPpu_cpu s
  exact h.of_parts h1 (by rw [h2]) h.ppu.tick (by rw [h5]; exact h.timer) (by rw [h3]; exact h.dma)
    (by rw [h4]; exact h.hdma) (by rw [h6]; exact h.apu)
    ⟨by rw [h7]; exact h.external.wram, by rw [h7]; exact h.external.hram, by rw [hi]; exact h.external.flags⟩

theorem Inv.tickApu {s : State} (h : Inv s) : Inv (tickApu s) := by
  obtain ⟨h1, h2, h3, h4, h5, h6, -, h7, h8, -, -, -, -⟩ := tickApu_frame s
  exact h.of_parts h1 (by rw [h2]) (by rw [h3]; exact h.ppu) (by rw [h6]; exact h.timer) (by rw [h4]; exact h.dma)
    (by rw [h5]; exact h.hdma) h.apu.tick
    ⟨by rw [h8]; exact h.external.wram, by rw [h8]; exact h.external.hram, by rw [h7]; exact h.external.flags⟩

theorem Inv.releaseSource {s : State} (h : Inv s) : Inv (releaseSource s) := by
  simp only [Machine.releaseSource]
  split
  · exact (h.setBlocked _ false).setDma ⟨h.dma.cycle, h.dma.readIdx, h.dma.writeIdx, h.dma.reads, h.dma.writes, by simp⟩
  · exact h

theorem Inv.dmaTakeSource {s : State} (h : Inv s) : Inv (dmaTakeSource s) := by
  simp only [Machine.dmaTakeSource]
  split
  · exact (h.setBlocked _ true).setDma ⟨h.dma.cycle, h.dma.readIdx, h.dma.writeIdx, h.dma.reads, h.dma.writes, by simp⟩
  · exact h
  · exact h

theorem dmaTakeSource_dma (s : State) :
    (dmaTakeSource s).dma = s.dma ∨ (dmaTakeSource s).dma = { s.dma with srcSeg := some .general } := by
  simp only [dmaTakeSource]
  split
  · exact .inr rfl
  · exact .inl rfl
  · exact .inl rfl

/-- What the read of a group does to the engine: one more byte read, and perhaps a segment held. -/
theorem dmaReadStep_dma (g : Nat) (s : State) (hs : s.dma.srcSeg ≠ some .oam) :
    ∃ k b, k ≠ some .oam ∧
      (dmaReadStep g s).dma = { s.dma with pending := b, readIdx := s.dma.readIdx + 1, srcSeg := k } := by
  have h0 : ∃ k, k ≠ some .oam ∧ (if g = 0 then dmaTakeSource s else s).dma = { s.dma with srcSeg := k } := by
    split
    · obtain h | h := dmaTakeSource_dma s
      · exact ⟨s.dma.srcSeg, hs, h⟩
      · exact ⟨some .general, by simp, h⟩
    · exact ⟨s.dma.srcSeg, hs, rfl⟩
  obtain ⟨k, hk, he⟩ := h0
  refine ⟨k, (dmaReadStep g s).dma.pending, hk, ?_⟩
  simp only [dmaReadStep, busRead_snd, State.setDma_dma, he]

/-- What the write of a group does to the engine: one more byte written, or a restart, if it hits the DMA register. -/
theorem dmaWriteStep_dma (g : Nat) (s : State) (hs : s.dma.srcSeg ≠ some .oam) :
    ∃ k, k ≠ some .oam ∧ ((dmaWriteStep g s).dma = { s.dma with writeIdx := s.dma.writeIdx + 1, srcSeg := k } ∨
      (dmaWriteStep g s).dma = { s.dma.start s.dma.pending with writeIdx := 1, srcSeg := k }) := by
  obtain hd | hd := busWrite_dma (s.cfg.base .oam + BitVec.ofNat 16 s.dma.writeIdx) s.dma.pending false s
  · simp only [dmaWriteStep]
    split
    · exact ⟨none, by simp, .inl (by simp [releaseSource_srcSeg, hd])⟩
    · exact ⟨s.dma.srcSeg, hs, .inl (by simp [hd])⟩
  · simp only [dmaWriteStep]
    split
    · exact ⟨none, by simp, .inr (by simp [releaseSource_srcSeg, hd, Dma.start])⟩
    · exact ⟨none, by simp, .inr (by simp [hd, Dma.start])⟩

theorem dmaWriteStep_keeps {P : State → Prop} (g : Nat) {s : State} (hw : ∀ a v, P (busWrite a v false s))
    (hd : ∀ t d, P t → P (t.setDma d)) (hr : ∀ t, P t → P (releaseSource t)) : P (dmaWriteStep g s) := by
  simp only [dmaWriteStep]
  split
  · exact hr _ (hd _ _ (hw _ _))
  · exact hd _ _ (hw _ _)

/-- The parts of the invariant that do not speak of the OAM DMA engine. -/
structure InvButDma (s : State) : Prop where
  bus      : BusInv s
  ppu      : PpuInv s.ppu
  timer    : TimerInv s.cfg.timaReloadHold s.timer
  hdma     : HdmaInv (s.cfg.base .vram) s.hdma
  apu      : ApuInv s.cfg.samplePeriod s.apu
  external : ExternalInv s

theorem Inv.butDma {s : State} (h : Inv s) : InvButDma s := ⟨h.bus, h.ppu, h.timer, h.hdma, h.apu, h.external⟩

theorem InvButDma.inv {s : State} (h : InvButDma s) (hd : DmaInv s.dma) : Inv s :=
  ⟨h.bus, h.ppu, h.timer, hd, h.hdma, h.apu, h.external⟩

theorem InvButDma.setDma {s : State} (d : Dma) (h : InvButDma s) : InvButDma (s.setDma d) :=
  ⟨⟨h.bus.canonical, h.bus.disjoint⟩, h.ppu, h.timer, h.hdma, h.apu, ⟨h.external.wram, h.external.hram, h.external.flags⟩⟩

theorem InvButDma.setBus {s : State} {b : Bus} (hb : b.registered = s.bus.registered) (h : InvButDma s) :
    InvButDma (s.setBus b) :=
  ⟨h.bus.of_eq hb rfl, h.ppu, h.timer, h.hdma, h.apu, ⟨h.external.wram, h.external.hram, h.external.flags⟩⟩

theorem InvButDma.releaseSource {s : State} (h : InvButDma s) : InvButDma (releaseSource s) := by
  simp only [Machine.releaseSource]
  split
  · exact InvButDma.setDma (s := s.setBlocked _ false) _ (h.setBus (Bus.setBlocked_registered _ _ _))
  · exact h

theorem dmaWork_inv {s : State} (c : Nat) (h : Inv s) : InvButDma (dmaWork c s) := by
  simp only [dmaWork]
  split
  · exact dmaWriteStep_keeps (P := InvButDma) _ (fun a v => (h.busWrite a v false).butDma)
      (fun t d ht => ht.setDma d) (fun t ht => ht.releaseSource)
  · split
    · simp only [dmaReadStep]
      have h0 : Inv (if c / 4 = 0 then dmaTakeSource s else s) := by
        split
        · exact h.dmaTakeSource
        · exact h
      rw [busRead_snd]
      exact InvButDma.setDma _ (h0.butDma.setBus rfl)
    · exact h.butDma

/-- The engine's counters after the work of a tick, once the tick is counted. -/
theorem DmaInv.work {s : State} (ha : s.dma.active = true) (h : DmaInv s.dma) {n : Nat} (hn : n < 644) {b : Bool}
    (hb : b = true → n = s.dma.cycle + 1) :
    DmaInv { (dmaWork s.dma.cycle s).dma with cycle := n, active := b } := by
  have h1 := h.cycle
  have h2 := h.readIdx
  have h3 := h.writeIdx
  have h4 := h.reads ha
  have h5 := h.writes ha
  simp only [dmaWork]
  split
  · next hc =>
    simp only [Bool.and_eq_true, decide_eq_true_eq] at hc
    obtain ⟨k, hk, he | he⟩ := dmaWriteStep_dma (s.dma.cycle / 4) s h.srcSeg
    · rw [he]
      refine ⟨hn, h2, ?_, fun hb' => ?_, fun hb' => ?_, hk⟩ <;> (try have := hb hb') <;> simp only <;> omega
    · rw [he]
      refine ⟨hn, ?_, ?_, fun hb' => ?_, fun hb' => ?_, hk⟩ <;> (try have := hb hb') <;> simp only [Dma.start] <;> omega
  · split
    · next hc =>
      simp only [Bool.and_eq_true, decide_eq_true_eq] at hc
      obtain ⟨k, p, hk, he⟩ := dmaReadStep_dma (s.dma.cycle / 4) s h.srcSeg
      rw [he]
      refine ⟨hn, ?_, h3, fun hb' => ?_, fun hb' => ?_, hk⟩ <;> (try have := hb hb') <;> simp only <;> omega
    · refine ⟨hn, h2, h3, fun hb' => ?_, fun hb' => ?_, h.srcSeg⟩ <;> (try have := hb hb') <;> simp only <;> omega

/-- The work of a tick does not stop the engine. -/
theorem dmaWork_active {s : State} (ha : s.dma.active = true) (hs : s.dma.srcSeg ≠ some .oam) (c : Nat) :
    (dmaWork c s).dma.active = true := by
  simp only [dmaWork]
  split
  · obtain ⟨k, _, he | he⟩ := dmaWriteStep_dma (c / 4) s hs
    · rw [he]; exact ha
    · rw [he]; rfl
  · split
    · obtain ⟨k, p, _, he⟩ := dmaReadStep_dma (c / 4) s hs
      rw [he]; exact ha
    · exact ha

theorem Inv.tickDma {s : State} (h : Inv s) : Inv (tickDma s) := by
  have h1 := h.dma.cycle
  simp only [Machine.tickDma]
  split
  · next ha =>
    have hw := dmaWork_inv s.dma.cycle h
    split
    · simp only [dmaEndStep]
      refine Inv.releaseSource (Inv.setBlocked .oam false (InvButDma.inv (InvButDma.setDma _ (hw.setDma _)) ?_))
      exact h.dma.work ha (by decide) (by simp)
    · refine InvButDma.inv (hw.setDma _) ?_
      have hd := h.dma.work ha (n := s.dma.cycle + 1) (by simp only [dmaLength] at *; omega) (b := true) (by simp)
      have hx := dmaWork_active ha h.dma.srcSeg s.dma.cycle
      rw [← hx] at hd
      exact hd
  · exact h

theorem hdmaNextState_idle (m : HdmaMode) (n : Nat) : hdmaNextState m n = .idle ↔ n = 0 := by
  simp only [hdmaNextState]
  split
  · next h => simp [h]
  · next h => split <;> simp [h]

theorem Inv.tickHdma {s : State} (h : Inv s) : Inv (tickHdma s) := by
  simp only [Machine.tickHdma]
  split
  · exact h
  · exact h
  · next hs =>
    split
    · exact h.setHdma ⟨fun _ => h.hdma.dst (by simp [Hdma.busy, hs]), h.hdma.remaining, by simpa [hs] using h.hdma.idle⟩
    · exact h
  · next hs =>
    split
    · exact h.setHdma ⟨fun _ => h.hdma.dst (by simp [Hdma.busy, hs]), h.hdma.remaining, by simpa [hs] using h.hdma.idle⟩
    · exact h
  · next hs =>
    simp only [hdmaReadStep, busRead_snd]
    exact h.setHdma ⟨fun _ => h.hdma.dst (by simp [Hdma.busy, hs]), h.hdma.remaining, by simpa [hs] using h.hdma.idle⟩
  · simp only [hdmaWriteStep]
    have hw := h.busWrite s.hdma.dst s.hdma.pending false
    refine hw.setHdma ⟨fun _ => ?_, Nat.le_trans (Nat.sub_le _ _) hw.hdma.remaining, hdmaNextState_idle _ _⟩
    rw [busWrite_cfg]
    exact vram_offset_lt _ _ (by decide)

theorem Inv.slowGroup {s : State} (h : Inv s) : Inv (slowGroup s) := h.tickPpu.tickApu.tickHdma

theorem Inv.fastGroup {s : State} (h : Inv s) : Inv (fastGroup s) := h.tickTimer.tickSerial.tickDma

theorem Inv.cycleTick {s : State} (ds : Bool) (h : Inv s) : Inv (cycleTick ds s) := by
  simp only [Machine.cycleTick]
  split
  · split
    · exact (h.fastGroup.setHalfPhase false).slowGroup
    · exact h.fastGroup.setHalfPhase true
  · exact (h.fastGroup.setHalfPhase false).slowGroup

theorem Inv.ioTick {s : State} (n : Nat) (ds : Bool) (h : Inv s) : Inv (ioTick n ds s) := by
  simp only [Machine.ioTick]
  split
  · exact repeatN_keeps (P := Inv) (fun _ h' => h'.cycleTick ds) n h
  · simp only [groupTick]
    have h1 := repeatN_keeps (P := Inv) (fun _ h' => h'.tickTimer) n h
    have h2 := repeatN_keeps (P := Inv) (fun _ h' => h'.tickSerial) n h1
    have h3 := Inv.setHalfPhase (halfPhaseAfter n ds s.halfPhase) (repeatN_keeps (P := Inv) (fun _ h' => h'.tickDma) n h2)
    have h4 := repeatN_keeps (P := Inv) (fun _ h' => h'.tickPpu) (slowCalls n ds s.halfPhase) h3
    have h5 := repeatN_keeps (P := Inv) (fun _ h' => h'.tickApu) (slowCalls n ds s.halfPhase) h4
    exact repeatN_keeps (P := Inv) (fun _ h' => h'.tickHdma) (slowCalls n ds s.halfPhase) h5

theorem Inv.takeStall {s : State} (h : Inv s) : Inv (takeStall s) := by
  have h' : Inv (s.setHdma { s.hdma with stall := 0 }) := h.setHdma ⟨h.hdma.dst, h.hdma.remaining, h.hdma.idle⟩
  simp only [Machine.takeStall]
  split
  · exact h'.ioTick _ _
  · exact h'.ioTick _ _

/-! Registration. -/

theorem mem_claimOverlaps {s : State} {hid k : HandlerId} {a : Addr} (hk : k ∈ s.bus.registered) (hne : k ≠ hid)
    (h1 : s.cfg.claims hid a = true) (h2 : s.cfg.claims k a = true) :
    ∃ n ∈ claimOverlaps s hid, n ≤ a.toNat := by
  simp only [Config.claims, Option.isSome_iff_exists] at h1 h2
  obtain ⟨p, hp⟩ := h1
  obtain ⟨q, hq⟩ := h2
  simp only [Config.placeAt] at hp hq
  have cp := List.find?_some hp
  have cq := List.find?_some hq
  rw [covers_iff] at cp cq
  have ha := a.isLt
  refine ⟨max (s.cfg.base p).toNat (s.cfg.base q).toNat, ?_, by omega⟩
  simp only [claimOverlaps, List.mem_flatMap, List.mem_filter, bne_iff_ne, List.mem_filterMap]
  refine ⟨k, ⟨hk, hne⟩, p, List.mem_of_find?_eq_some hp, q, List.mem_of_find?_eq_some hq, ?_⟩
  simp only [sharedAddr]
  rw [if_pos (by omega)]

/-- No conflict: no registered handler but itself claims an address of the claimed set. -/
theorem claims_disjoint_of_none {s : State} {hid k : HandlerId} (hc : claimConflict s hid = none)
    (hk : k ∈ s.bus.registered) {a : Addr} (h1 : s.cfg.claims hid a = true) (h2 : s.cfg.claims k a = true) :
    k = hid := by
  by_contra hne
  obtain ⟨n, hn, _⟩ := mem_claimOverlaps hk hne h1 h2
  simp only [claimConflict, List.min?_eq_none_iff] at hc
  simp [hc] at hn

theorem HandlerId.mem_all (h : HandlerId) : h ∈ HandlerId.all := by cases h <;> decide

theorem Inv.registerHandler {s : State} (hid : HandlerId) (h : Inv s) : Inv (registerHandler hid s) := by
  simp only [Machine.registerHandler]
  split
  · exact h.setFault _
  · next hc =>
    split
    · exact h
    · refine ⟨⟨?_, ?_⟩, h.ppu, h.timer, h.dma, h.hdma, h.apu,
        ⟨h.external.wram, h.external.hram, h.external.flags⟩⟩
      · simp only [Bus.canonical, State.setBus_bus]
        refine List.filter_congr fun x _ => ?_
        rw [Bool.eq_iff_iff]
        simp [HandlerId.mem_all]
      · intro x hx y hy a ha hb
        simp only [State.setBus_bus, List.mem_filter, Bool.or_eq_true, beq_iff_eq, List.contains_iff_mem] at hx hy
        simp only [State.setBus_cfg] at ha hb
        replace hx := hx.2
        replace hy := hy.2
        obtain hx | hx := hx
        · subst hx
          obtain hy | hy := hy
          · exact hy.symm
          · exact (claims_disjoint_of_none hc hy ha hb).symm
        · obtain hy | hy := hy
          · subst hy
            exact claims_disjoint_of_none hc hx hb ha
          · exact h.bus.disjoint x hx y hy a ha hb

theorem Inv.unregisterHandler {s : State} (hid : HandlerId) (h : Inv s) : Inv (unregisterHandler hid s) := by
  refine ⟨⟨?_, ?_⟩, h.ppu, h.timer, h.dma, h.hdma, h.apu, ⟨h.external.wram, h.external.hram, h.external.flags⟩⟩
  · have hc := h.bus.canonical
    simp only [Bus.canonical, Machine.unregisterHandler, State.setBus_bus] at hc ⊢
    conv_lhs => rw [hc]
    rw [List.filter_filter]
    refine List.filter_congr fun x _ => ?_
    rw [Bool.eq_iff_iff]
    simp [and_comm]
  · intro x hx y hy a ha hb
    simp only [Machine.unregisterHandler, State.setBus_bus, List.mem_filter] at hx hy
    exact h.bus.disjoint x hx.1 y hy.1 a ha hb

theorem Inv.issueRead {s : State} (a : Addr) (hb : Bool) (h : Inv s) : Inv (issueRead a hb s) := by
  rw [issueRead_eq]
  exact h.setRdata _

/-! Reset. -/

/-- The machine at power-on meets the invariant, whatever its configuration. -/
theorem Inv.powerOn (cfg : Config) : Inv (State.powerOn cfg) := by
  constructor
  · exact ⟨rfl, fun h hh => by simp [State.powerOn, Bus.reset] at hh⟩
  · constructor <;> simp [State.powerOn, Ppu.reset, Memory.wf, PixelMap.wf, SpriteMap.wf, risingFrom, Ppu.lcdEnabled]
  · exact ⟨rfl, Nat.zero_le _⟩
  · constructor <;> simp [State.powerOn, Dma.reset]
  · constructor <;> simp [State.powerOn, Hdma.reset, Hdma.busy]
  · constructor <;> simp [State.powerOn, Apu.reset, Chan.reset, Envelope.reset, Sweep.reset, Memory.wf, risingFrom,
      Apu.registers]
    exact cfg.samplePeriod.property
  · exact ⟨rfl, rfl, by simp [State.powerOn, Cpu.reset]⟩

theorem Inv.resetBlock {s : State} (h : Inv s) : Inv (resetBlock s) := by
  have hp := Inv.powerOn s.cfg
  exact ⟨⟨hp.bus.canonical, hp.bus.disjoint⟩, hp.ppu, hp.timer, hp.dma, hp.hdma, hp.apu,
    ⟨h.external.wram, h.external.hram, h.external.flags⟩⟩

/-! The CPU's acts. -/

theorem Inv.raiseIrq {s : State} (n : Nat) (h : Inv s) : Inv (raiseIrq n s) := h.setCpu h.external.flags

theorem Inv.pushPc {s : State} (h : Inv s) : Inv (pushPc s) := by
  simp only [Machine.pushPc]
  have h2 := (h.busWrite (s.cpu.sp - 1#16) (s.cpu.pc.extractLsb' 8 8) true).busWrite (s.cpu.sp - 2#16)
    (s.cpu.pc.extractLsb' 0 8) true
  exact h2.setCpu h2.external.flags

theorem Inv.enterInterrupt {s : State} (n : Nat) (h : Inv s) : Inv (enterInterrupt n s) := by
  simp only [Machine.enterInterrupt]
  have h1 := Inv.pushPc (h.setCpu (c := { s.cpu with run := .servicingInterrupt }) h.external.flags)
  exact h1.setCpu h1.external.flags

theorem Inv.serviceInterrupt {s : State} (n : Nat) (h : Inv s) : Inv (serviceInterrupt n s) := by
  simp only [Machine.serviceInterrupt]
  have h1 := (h.enterInterrupt n).ioTick 20 s.cpu.doubleSpeed
  exact h1.setCpu h1.external.flags

theorem Cpu.wake_af (c : Cpu) : c.wake.af = c.af := by
  simp only [Cpu.wake]
  split <;> rfl

theorem Inv.cpuService {s : State} (h : Inv s) : Inv (cpuService s) := by
  have hw : Inv (s.setCpu s.cpu.wake) := h.setCpu (by rw [Cpu.wake_af]; exact h.external.flags)
  simp only [Machine.cpuService]
  split
  · exact h
  · split
    · exact hw.serviceInterrupt _
    · exact hw

theorem Inv.cpuFetch {s : State} (h : Inv s) : Inv (cpuFetch s) := by
  simp only [Machine.cpuFetch]
  have h1 := h.issueRead s.cpu.pc true
  exact h1.setCpu h1.external.flags

theorem Inv.cpuSet {s : State} (af bc de hl : BitVec 16) (sp pc : Addr) (ime : Bool) (h : Inv s) :
    Inv (cpuSet af bc de hl sp pc ime s) := by
  refine h.setCpu ?_
  simp only []
  rw [BitVec.and_assoc]
  simp

theorem Inv.performAct {s : State} (act : CpuAct) (h : Inv s) : Inv (performAct act s) := by
  cases act with
  | fetch => exact h.cpuFetch
  | read a => exact h.issueRead a true
  | write a v => exact h.busWrite a v true
  | set af bc de hl sp pc ime => exact h.cpuSet af bc de hl sp pc ime
  | halt => exact h.setCpu h.external.flags
  | stop => exact h.setCpu h.external.flags

theorem Inv.cpuAct {s : State} (act : CpuAct) (h : Inv s) : Inv (cpuAct act s) := by
  simp only [Machine.cpuAct]
  split
  · exact h
  · exact h.performAct act

theorem Inv.executeInstruction {s : State} (acts : List CpuAct) (cycles : Nat) (h : Inv s) :
    Inv (executeInstruction acts cycles s) := by
  have hf : Inv (acts.foldl (fun s act => Machine.cpuAct act s) s) := by
    induction acts generalizing s with
    | nil => exact h
    | cons act acts ih => exact ih (h.cpuAct act)
  exact hf.ioTick _ _

theorem Inv.cpuTick {s : State} (acts : List CpuAct) (cycles idle : Nat) (h : Inv s) : Inv (cpuTick acts cycles idle s) := by
  simp only [Machine.cpuTick]
  split
  · exact h.cpuService
  · split
    · exact h.cpuService.ioTick _ _
    · exact h.cpuService.executeInstruction _ _

theorem Inv.cpuStep {s : State} {f : State → State} (hf : ∀ t, Inv t → Inv (f t)) (h : Inv s) : Inv (cpuStep f s) :=
  (hf _ h.takeStall).takeStall

/-! The joypad's buttons. -/

theorem Inv.moveButton {s : State} (k : Button) (d : Bool) (h : Inv s) : Inv (moveButton k d s) :=
  ⟨⟨h.bus.canonical, h.bus.disjoint⟩, h.ppu, h.timer, h.dma, h.hdma, h.apu,
    ⟨h.external.wram, h.external.hram, h.external.flags⟩⟩

theorem Inv.pressButton {s : State} (k : Button) (h : Inv s) : Inv (pressButton k s) := by
  simp only [Machine.pressButton]
  split
  · exact (h.moveButton k true).raiseIrq 4
  · exact h.moveButton k true

end Sys2Proof.Machine
end

