-- ==== Sys2Proof/Laws/PerInstr.lean ====
section
/-! SUPPORT. The decoder's round trip, one lemma for each constructor. -/

namespace Sys2Proof.Laws.RoundTrip

/-- A well-formed operation's word decodes to that operation. -/
def Statement (i : Instr) : Prop := i.wf = true → decode (encode i) = .ok i

theorem rd (hb : Bool) (addr : Addr) : Statement (.rd hb addr) := fun h =>
  decode_encodeRead_generic hb (by simpa [Instr.wf, genericAddr] using h)

theorem wr (hb : Bool) (addr : Addr) (v : Byte) : Statement (.wr hb addr v) := fun h =>
  decode_encodeWrite_generic hb v (by simpa [Instr.wf, genericAddr] using h)

theorem rdVram (hb : Bool) (off : BitVec 13) : Statement (.rdVram hb off) := by
  intro _
  have ho : off.toNat < Place.size .vram := off.isLt
  rw [encode, decode_encodeRead hb (tablePlaceAt_placeAddr (by decide) ho)]
  simp [readInstr, tableOffset_placeAddr ho]

theorem wrVram (hb : Bool) (off : BitVec 13) (v : Byte) : Statement (.wrVram hb off v) := by
  intro _
  have ho : off.toNat < Place.size .vram := off.isLt
  rw [encode, decode_encodeWrite hb v (tablePlaceAt_placeAddr (by decide) ho)]
  simp [writeInstr, tableOffset_placeAddr ho]

theorem rdOam (hb : Bool) (i : Byte) : Statement (.rdOam hb i) := by
  intro h
  have ho : i.toNat < Place.size .oam := by simpa [Instr.wf, oamIndexOk, Place.size] using h
  rw [encode, decode_encodeRead hb (tablePlaceAt_placeAddr (by decide) ho)]
  simp [readInstr, tableOffset_placeAddr ho]

theorem wrOam (hb : Bool) (i : Byte) (v : Byte) : Statement (.wrOam hb i v) := by
  intro h
  have ho : i.toNat < Place.size .oam := by simpa [Instr.wf, oamIndexOk, Place.size] using h
  rw [encode, decode_encodeWrite hb v (tablePlaceAt_placeAddr (by decide) ho)]
  simp [writeInstr, tableOffset_placeAddr ho]

theorem rdWave (hb : Bool) (i : BitVec 4) : Statement (.rdWave hb i) := by
  intro _
  have ho : i.toNat < Place.size .wave := i.isLt
  rw [encode, decode_encodeRead hb (tablePlaceAt_placeAddr (by decide) ho)]
  simp [readInstr, tableOffset_placeAddr ho]

theorem wrWave (hb : Bool) (i : BitVec 4) (v : Byte) : Statement (.wrWave hb i v) := by
  intro _
  have ho : i.toNat < Place.size .wave := i.isLt
  rw [encode, decode_encodeWrite hb v (tablePlaceAt_placeAddr (by decide) ho)]
  simp [writeInstr, tableOffset_placeAddr ho]

theorem rdDiv (hb : Bool) : Statement (.rdDiv hb) := fun _ =>
  decode_encodeRead hb (tablePlaceAt_register (by decide) (by decide))

theorem wrDiv (hb : Bool) (v : Byte) : Statement (.wrDiv hb v) := fun _ =>
  decode_encodeWrite hb v (tablePlaceAt_register (by decide) (by decide))

theorem rdTima (hb : Bool) : Statement (.rdTima hb) := fun _ =>
  decode_encodeRead hb (tablePlaceAt_register (by decide) (by decide))

theorem wrTima (hb : Bool) (v : Byte) : Statement (.wrTima hb v) := fun _ =>
  decode_encodeWrite hb v (tablePlaceAt_register (by decide) (by decide))

theorem rdTma (hb : Bool) : Statement (.rdTma hb) := fun _ =>
  decode_encodeRead hb (tablePlaceAt_register (by decide) (by decide))

theorem wrTma (hb : Bool) (v : Byte) : Statement (.wrTma hb v) := fun _ =>
  decode_encodeWrite hb v (tablePlaceAt_register (by decide) (by decide))

theorem rdTac (hb : Bool) : Statement (.rdTac hb) := fun _ =>
  decode_encodeRead hb (tablePlaceAt_register (by decide) (by decide))

theorem wrTac (hb : Bool) (v : Byte) : Statement (.wrTac hb v) := fun _ =>
  decode_encodeWrite hb v (tablePlaceAt_register (by decide) (by decide))

theorem rdNr10 (hb : Bool) : Statement (.rdNr10 hb) := fun _ =>
  decode_encodeRead hb (tablePlaceAt_register (by decide) (by decide))

theorem wrNr10 (hb : Bool) (v : Byte) : Statement (.wrNr10 hb v) := fun _ =>
  decode_encodeWrite hb v (tablePlaceAt_register (by decide) (by decide))

theorem rdNr11 (hb : Bool) : Statement (.rdNr11 hb) := fun _ =>
  decode_encodeRead hb (tablePlaceAt_register (by decide) (by decide))

theorem wrNr11 (hb : Bool) (v : Byte) : Statement (.wrNr11 hb v) := fun _ =>
  decode_encodeWrite hb v (tablePlaceAt_register (by decide) (by decide))

theorem rdNr12 (hb : Bool) : Statement (.rdNr12 hb) := fun _ =>
  decode_encodeRead hb (tablePlaceAt_register (by decide) (by decide))

theorem wrNr12 (hb : Bool) (v : Byte) : Statement (.wrNr12 hb v) := fun _ =>
  decode_encodeWrite hb v (tablePlaceAt_register (by decide) (by decide))

theorem rdNr13 (hb : Bool) : Statement (.rdNr13 hb) := fun _ =>
  decode_encodeRead hb (tablePlaceAt_register (by decide) (by decide))

theorem wrNr13 (hb : Bool) (v : Byte) : Statement (.wrNr13 hb v) := fun _ =>
  decode_encodeWrite hb v (tablePlaceAt_register (by decide) (by decide))

theorem rdNr14 (hb : Bool) : Statement (.rdNr14 hb) := fun _ =>
  decode_encodeRead hb (tablePlaceAt_register (by decide) (by decide))

theorem wrNr14 (hb : Bool) (v : Byte) : Statement (.wrNr14 hb v) := fun _ =>
  decode_encodeWrite hb v (tablePlaceAt_register (by decide) (by decide))

theorem rdNr21 (hb : Bool) : Statement (.rdNr21 hb) := fun _ =>
  decode_encodeRead hb (tablePlaceAt_register (by decide) (by decide))

theorem wrNr21 (hb : Bool) (v : Byte) : Statement (.wrNr21 hb v) := fun _ =>
  decode_encodeWrite hb v (tablePlaceAt_register (by decide) (by decide))

theorem rdNr22 (hb : Bool) : Statement (.rdNr22 hb) := fun _ =>
  decode_encodeRead hb (tablePlaceAt_register (by decide) (by decide))

theorem wrNr22 (hb : Bool) (v : Byte) : Statement (.wrNr22 hb v) := fun _ =>
  decode_encodeWrite hb v (tablePlaceAt_register (by decide) (by decide))

theorem rdNr23 (hb : Bool) : Statement (.rdNr23 hb) := fun _ =>
  decode_encodeRead hb (tablePlaceAt_register (by decide) (by decide))

theorem wrNr23 (hb : Bool) (v : Byte) : Statement (.wrNr23 hb v) := fun _ =>
  decode_encodeWrite hb v (tablePlaceAt_register (by decide) (by decide))

theorem rdNr24 (hb : Bool) : Statement (.rdNr24 hb) := fun _ =>
  decode_encodeRead hb (tablePlaceAt_register (by decide) (by decide))

theorem wrNr24 (hb : Bool) (v : Byte) : Statement (.wrNr24 hb v) := fun _ =>
  decode_encodeWrite hb v (tablePlaceAt_register (by decide) (by decide))

theorem rdNr30 (hb : Bool) : Statement (.rdNr30 hb) := fun _ =>
  decode_encodeRead hb (tablePlaceAt_register (by decide) (by decide))

theorem wrNr30 (hb : Bool) (v : Byte) : Statement (.wrNr30 hb v) := fun _ =>
  decode_encodeWrite hb v (tablePlaceAt_register (by decide) (by decide))

theorem rdNr31 (hb : Bool) : Statement (.rdNr31 hb) := fun _ =>
  decode_encodeRead hb (tablePlaceAt_register (by decide) (by decide))

theorem wrNr31 (hb : Bool) (v : Byte) : Statement (.wrNr31 hb v) := fun _ =>
  decode_encodeWrite hb v (tablePlaceAt_register (by decide) (by decide))

theorem rdNr32 (hb : Bool) : Statement (.rdNr32 hb) := fun _ =>
  decode_encodeRead hb (tablePlaceAt_register (by decide) (by decide))

theorem wrNr32 (hb : Bool) (v : Byte) : Statement (.wrNr32 hb v) := fun _ =>
  decode_encodeWrite hb v (tablePlaceAt_register (by decide) (by decide))

theorem rdNr33 (hb : Bool) : Statement (.rdNr33 hb) := fun _ =>
  decode_encodeRead hb (tablePlaceAt_register (by decide) (by decide))

theorem wrNr33 (hb : Bool) (v : Byte) : Statement (.wrNr33 hb v) := fun _ =>
  decode_encodeWrite hb v (tablePlaceAt_register (by decide) (by decide))

theorem rdNr34 (hb : Bool) : Statement (.rdNr34 hb) := fun _ =>
  decode_encodeRead hb (tablePlaceAt_register (by decide) (by decide))

theorem wrNr34 (hb : Bool) (v : Byte) : Statement (.wrNr34 hb v) := fun _ =>
  decode_encodeWrite hb v (tablePlaceAt_register (by decide) (by decide))

theorem rdNr41 (hb : Bool) : Statement (.rdNr41 hb) := fun _ =>
  decode_encodeRead hb (tablePlaceAt_register (by decide) (by decide))

theorem wrNr41 (hb : Bool) (v : Byte) : Statement (.wrNr41 hb v) := fun _ =>
  decode_encodeWrite hb v (tablePlaceAt_register (by decide) (by decide))

theorem rdNr42 (hb : Bool) : Statement (.rdNr42 hb) := fun _ =>
  decode_encodeRead hb (tablePlaceAt_register (by decide) (by decide))

theorem wrNr42 (hb : Bool) (v : Byte) : Statement (.wrNr42 hb v) := fun _ =>
  decode_encodeWrite hb v (tablePlaceAt_register (by decide) (by decide))

theorem rdNr43 (hb : Bool) : Statement (.rdNr43 hb) := fun _ =>
  decode_encodeRead hb (tablePlaceAt_register (by decide) (by decide))

theorem wrNr43 (hb : Bool) (v : Byte) : Statement (.wrNr43 hb v) := fun _ =>
  decode_encodeWrite hb v (tablePlaceAt_register (by decide) (by decide))

theorem rdNr44 (hb : Bool) : Statement (.rdNr44 hb) := fun _ =>
  decode_encodeRead hb (tablePlaceAt_register (by decide) (by decide))

theorem wrNr44 (hb : Bool) (v : Byte) : Statement (.wrNr44 hb v) := fun _ =>
  decode_encodeWrite hb v (tablePlaceAt_register (by decide) (by decide))

theorem rdNr50 (hb : Bool) : Statement (.rdNr50 hb) := fun _ =>
  decode_encodeRead hb (tablePlaceAt_register (by decide) (by decide))

theorem wrNr50 (hb : Bool) (v : Byte) : Statement (.wrNr50 hb v) := fun _ =>
  decode_encodeWrite hb v (tablePlaceAt_register (by decide) (by decide))

theorem rdNr51 (hb : Bool) : Statement (.rdNr51 hb) := fun _ =>
  decode_encodeRead hb (tablePlaceAt_register (by decide) (by decide))

theorem wrNr51 (hb : Bool) (v : Byte) : Statement (.wrNr51 hb v) := fun _ =>
  decode_encodeWrite hb v (tablePlaceAt_register (by decide) (by decide))

theorem rdNr52 (hb : Bool) : Statement (.rdNr52 hb) := fun _ =>
  decode_encodeRead hb (tablePlaceAt_register (by decide) (by decide))

theorem wrNr52 (hb : Bool) (v : Byte) : Statement (.wrNr52 hb v) := fun _ =>
  decode_encodeWrite hb v (tablePlaceAt_register (by decide) (by decide))

theorem rdLcdc (hb : Bool) : Statement (.rdLcdc hb) := fun _ =>
  decode_encodeRead hb (tablePlaceAt_register (by decide) (by decide))

theorem wrLcdc (hb : Bool) (v : Byte) : Statement (.wrLcdc hb v) := fun _ =>
  decode_encodeWrite hb v (tablePlaceAt_register (by decide) (by decide))

theorem rdStat (hb : Bool) : Statement (.rdStat hb) := fun _ =>
  decode_encodeRead hb (tablePlaceAt_register (by decide) (by decide))

theorem wrStat (hb : Bool) (v : Byte) : Statement (.wrStat hb v) := fun _ =>
  decode_encodeWrite hb v (tablePlaceAt_register (by decide) (by decide))

theorem rdScy (hb : Bool) : Statement (.rdScy hb) := fun _ =>
  decode_encodeRead hb (tablePlaceAt_register (by decide) (by decide))

theorem wrScy (hb : Bool) (v : Byte) : Statement (.wrScy hb v) := fun _ =>
  decode_encodeWrite hb v (tablePlaceAt_register (by decide) (by decide))

theorem rdScx (hb : Bool) : Statement (.rdScx hb) := fun _ =>
  decode_encodeRead hb (tablePlaceAt_register (by decide) (by decide))

theorem wrScx (hb : Bool) (v : Byte) : Statement (.wrScx hb v) := fun _ =>
  decode_encodeWrite hb v (tablePlaceAt_register (by decide) (by decide))

theorem rdLy (hb : Bool) : Statement (.rdLy hb) := fun _ =>
  decode_encodeRead hb (tablePlaceAt_register (by decide) (by decide))

theorem wrLy (hb : Bool) (v : Byte) : Statement (.wrLy hb v) := fun _ =>
  decode_encodeWrite hb v (tablePlaceAt_register (by decide) (by decide))

theorem rdLyc (hb : Bool) : Statement (.rdLyc hb) := fun _ =>
  decode_encodeRead hb (tablePlaceAt_register (by decide) (by decide))

theorem wrLyc (hb : Bool) (v : Byte) : Statement (.wrLyc hb v) := fun _ =>
  decode_encodeWrite hb v (tablePlaceAt_register (by decide) (by decide))

theorem rdDma (hb : Bool) : Statement (.rdDma hb) := fun _ =>
  decode_encodeRead hb (tablePlaceAt_register (by decide) (by decide))

theorem wrDma (hb : Bool) (v : Byte) : Statement (.wrDma hb v) := fun _ =>
  decode_encodeWrite hb v (tablePlaceAt_register (by decide) (by decide))

theorem rdBgp (hb : Bool) : Statement (.rdBgp hb) := fun _ =>
  decode_encodeRead hb (tablePlaceAt_register (by decide) (by decide))

theorem wrBgp (hb : Bool) (v : Byte) : Statement (.wrBgp hb v) := fun _ =>
  decode_encodeWrite hb v (tablePlaceAt_register (by decide) (by decide))

theorem rdObp0 (hb : Bool) : Statement (.rdObp0 hb) := fun _ =>
  decode_encodeRead hb (tablePlaceAt_register (by decide) (by decide))

theorem wrObp0 (hb : Bool) (v : Byte) : Statement (.wrObp0 hb v) := fun _ =>
  decode_encodeWrite hb v (tablePlaceAt_register (by decide) (by decide))

theorem rdObp1 (hb : Bool) : Statement (.rdObp1 hb) := fun _ =>
  decode_encodeRead hb (tablePlaceAt_register (by decide) (by decide))

theorem wrObp1 (hb : Bool) (v : Byte) : Statement (.wrObp1 hb v) := fun _ =>
  decode_encodeWrite hb v (tablePlaceAt_register (by decide) (by decide))

theorem rdWy (hb : Bool) : Statement (.rdWy hb) := fun _ =>
  decode_encodeRead hb (tablePlaceAt_register (by decide) (by decide))

theorem wrWy (hb : Bool) (v : Byte) : Statement (.wrWy hb v) := fun _ =>
  decode_encodeWrite hb v (tablePlaceAt_register (by decide) (by decide))

theorem rdWx (hb : Bool) : Statement (.rdWx hb) := fun _ =>
  decode_encodeRead hb (tablePlaceAt_register (by decide) (by decide))

theorem wrWx (hb : Bool) (v : Byte) : Statement (.wrWx hb v) := fun _ =>
  decode_encodeWrite hb v (tablePlaceAt_register (by decide) (by decide))

theorem rdVbk (hb : Bool) : Statement (.rdVbk hb) := fun _ =>
  decode_encodeRead hb (tablePlaceAt_register (by decide) (by decide))

theorem wrVbk (hb : Bool) (v : Byte) : Statement (.wrVbk hb v) := fun _ =>
  decode_encodeWrite hb v (tablePlaceAt_register (by decide) (by decide))

theorem rdHdma1 (hb : Bool) : Statement (.rdHdma1 hb) := fun _ =>
  decode_encodeRead hb (tablePlaceAt_register (by decide) (by decide))

theorem wrHdma1 (hb : Bool) (v : Byte) : Statement (.wrHdma1 hb v) := fun _ =>
  decode_encodeWrite hb v (tablePlaceAt_register (by decide) (by decide))

theorem rdHdma2 (hb : Bool) : Statement (.rdHdma2 hb) := fun _ =>
  decode_encodeRead hb (tablePlaceAt_register (by decide) (by decide))

theorem wrHdma2 (hb : Bool) (v : Byte) : Statement (.wrHdma2 hb v) := fun _ =>
  decode_encodeWrite hb v (tablePlaceAt_register (by decide) (by decide))

theorem rdHdma3 (hb : Bool) : Statement (.rdHdma3 hb) := fun _ =>
  decode_encodeRead hb (tablePlaceAt_register (by decide) (by decide))

theorem wrHdma3 (hb : Bool) (v : Byte) : Statement (.wrHdma3 hb v) := fun _ =>
  decode_encodeWrite hb v (tablePlaceAt_register (by decide) (by decide))

theorem rdHdma4 (hb : Bool) : Statement (.rdHdma4 hb) := fun _ =>
  decode_encodeRead hb (tablePlaceAt_register (by decide) (by decide))

theorem wrHdma4 (hb : Bool) (v : Byte) : Statement (.wrHdma4 hb v) := fun _ =>
  decode_encodeWrite hb v (tablePlaceAt_register (by decide) (by decide))

theorem rdHdma5 (hb : Bool) : Statement (.rdHdma5 hb) := fun _ =>
  decode_encodeRead hb (tablePlaceAt_register (by decide) (by decide))

theorem wrHdma5 (hb : Bool) (v : Byte) : Statement (.wrHdma5 hb v) := fun _ =>
  decode_encodeWrite hb v (tablePlaceAt_register (by decide) (by decide))

theorem rdBcps (hb : Bool) : Statement (.rdBcps hb) := fun _ =>
  decode_encodeRead hb (tablePlaceAt_register (by decide) (by decide))

theorem wrBcps (hb : Bool) (v : Byte) : Statement (.wrBcps hb v) := fun _ =>
  decode_encodeWrite hb v (tablePlaceAt_register (by decide) (by decide))

theorem rdBcpd (hb : Bool) : Statement (.rdBcpd hb) := fun _ =>
  decode_encodeRead hb (tablePlaceAt_register (by decide) (by decide))

theorem wrBcpd (hb : Bool) (v : Byte) : Statement (.wrBcpd hb v) := fun _ =>
  decode_encodeWrite hb v (tablePlaceAt_register (by decide) (by decide))

theorem rdOcps (hb : Bool) : Statement (.rdOcps hb) := fun _ =>
  decode_encodeRead hb (tablePlaceAt_register (by decide) (by decide))

theorem wrOcps (hb : Bool) (v : Byte) : Statement (.wrOcps hb v) := fun _ =>
  decode_encodeWrite hb v (tablePlaceAt_register (by decide) (by decide))

theorem rdOcpd (hb : Bool) : Statement (.rdOcpd hb) := fun _ =>
  decode_encodeRead hb (tablePlaceAt_register (by decide) (by decide))

theorem wrOcpd (hb : Bool) (v : Byte) : Statement (.wrOcpd hb v) := fun _ =>
  decode_encodeWrite hb v (tablePlaceAt_register (by decide) (by decide))

theorem rdOpri (hb : Bool) : Statement (.rdOpri hb) := fun _ =>
  decode_encodeRead hb (tablePlaceAt_register (by decide) (by decide))

theorem wrOpri (hb : Bool) (v : Byte) : Statement (.wrOpri hb v) := fun _ =>
  decode_encodeWrite hb v (tablePlaceAt_register (by decide) (by decide))

theorem iotick (cycles : BitVec 16) : Statement (.iotick cycles) := fun _ => by
  obtain ⟨h1, h2, h3, h4⟩ := encodeIotick_fields false cycles
  simp only [decode, encode, h1, decodeIotick, h2, h3, h4]
  rfl

theorem iotick2 (cycles : BitVec 16) : Statement (.iotick2 cycles) := fun _ => by
  obtain ⟨h1, h2, h3, h4⟩ := encodeIotick_fields true cycles
  simp only [decode, encode, h1, decodeIotick, h2, h3, h4]
  rfl

theorem block (seg : Segment) (val : Bool) : Statement (.block seg val) := fun _ => by cases seg <;> cases val <;> rfl

theorem register (hid : HandlerId) : Statement (.register hid) := fun _ => by cases hid <;> rfl

theorem unregister (hid : HandlerId) : Statement (.unregister hid) := fun _ => by cases hid <;> rfl

theorem reset : Statement (.reset) := fun _ => rfl

theorem tickTimer : Statement (.tickTimer) := fun _ => rfl

theorem tickSerial : Statement (.tickSerial) := fun _ => rfl

theorem tickDma : Statement (.tickDma) := fun _ => rfl

theorem tickPpu : Statement (.tickPpu) := fun _ => rfl

theorem tickApu : Statement (.tickApu) := fun _ => rfl

theorem tickHdma : Statement (.tickHdma) := fun _ => rfl

end Sys2Proof.Laws.RoundTrip
end

