-- ==== Sys2Proof/Laws/Stall.lean ====
section
/-! SUPPORT. With the default map the engines' writes reach OAM and VRAM only, so no tick asks for a stall: a stall that is run
off (R308, R445) leaves none owed, and no general-purpose transfer under way (R102). -/

namespace Sys2Proof.Machine

/-- With the default map a write inside a place is that place's write or none. -/
theorem busWrite_covered {s : State} (hm : s.cfg.baseOverride = []) {q : Place} {a : Addr}
    (hq : covers q.defaultBase q.size a = true) (v : Byte) (hb : Bool) :
    busWrite a v hb s = s ∨ ∃ off, busWrite a v hb s = writePlace q off a v hb s := by
  obtain h | ⟨p, off, hr, _, h⟩ := busWrite_cases a v hb s
  · exact .inl h
  · obtain ⟨_, _, _, _, h1, h2⟩ := routeOwner_deliver (route_deliver hr)
    rw [base_default hm] at h1 h2
    rw [place_unique (covers_iff.mpr ⟨h1, h2⟩) hq] at h
    exact .inr ⟨off, h⟩

theorem writeVram_hdma (off : Nat) (a : Addr) (v : Byte) (hb : Bool) (s : State) :
    (writePlace .vram off a v hb s).hdma = s.hdma := by
  simp only [writePlace]
  split <;> rfl

theorem writeOam_hdma (off : Nat) (a : Addr) (v : Byte) (hb : Bool) (s : State) :
    (writePlace .oam off a v hb s).hdma = s.hdma := by
  simp only [writePlace]
  split <;> rfl

theorem dmaTakeSource_hdma (s : State) :
    (dmaTakeSource s).hdma = s.hdma ∧ (dmaTakeSource s).cfg = s.cfg := by
  simp only [dmaTakeSource]
  split <;> simp

/-- The OAM DMA engine writes OAM, so a tick of it leaves the HDMA engine and the configuration alone. -/
theorem tickDma_hdma {s : State} (hm : s.cfg.baseOverride = []) (h : DmaInv s.dma) :
    (tickDma s).hdma = s.hdma ∧ (tickDma s).cfg = s.cfg := by
  have hw : s.dma.active = true → (dmaWork s.dma.cycle s).hdma = s.hdma ∧ (dmaWork s.dma.cycle s).cfg = s.cfg := by
    intro ha
    have h1 := h.writes ha
    have h2 := h.cycle
    simp only [dmaWork]
    split
    · next hc =>
      simp only [Bool.and_eq_true, decide_eq_true_eq] at hc
      have hcov : covers (Place.oam).defaultBase (Place.oam).size
          (s.cfg.base .oam + BitVec.ofNat 16 s.dma.writeIdx) = true := by
        rw [base_default hm, covers_iff]
        have e : (Place.oam).defaultBase = 0xFE00#16 := rfl
        have e' : (Place.oam).size = 160 := rfl
        simp only [e, e', BitVec.toNat_add, BitVec.toNat_ofNat]
        omega
      have hb : (busWrite (s.cfg.base .oam + BitVec.ofNat 16 s.dma.writeIdx) s.dma.pending false s).hdma = s.hdma := by
        obtain hb | ⟨off, hb⟩ := busWrite_covered hm hcov s.dma.pending false
        · rw [hb]
        · rw [hb, writeOam_hdma]
      simp only [dmaWriteStep]
      split <;> simp [hb]
    · split
      · simp only [dmaReadStep, busRead_snd]
        split
        · exact dmaTakeSource_hdma s
        · exact ⟨rfl, rfl⟩
      · exact ⟨rfl, rfl⟩
  simp only [tickDma]
  split
  · next ha =>
    split
    · simp [dmaEndStep, hw ha]
    · exact hw ha
  · exact ⟨rfl, rfl⟩

/-- A write at a destination inside VRAM leaves the HDMA engine alone. -/
theorem busWrite_vram {s : State} (hm : s.cfg.baseOverride = []) {a : Addr} (ha : (a - s.cfg.base .vram).toNat < 0x2000)
    (v : Byte) : (busWrite a v false s).hdma = s.hdma := by
  rw [base_default hm] at ha
  have hcov : covers (Place.vram).defaultBase (Place.vram).size a = true := by
    rw [covers_iff]
    have e : (Place.vram).defaultBase = 0x8000#16 := rfl
    have e' : (Place.vram).size = 0x2000 := rfl
    rw [e] at ha
    simp only [e, e', BitVec.toNat_sub, BitVec.toNat_ofNat] at ha ⊢
    have := a.isLt
    omega
  obtain hb | ⟨off, hb⟩ := busWrite_covered hm hcov v false
  · rw [hb]
  · rw [hb, writeVram_hdma]

/-- The HDMA engine writes VRAM, so a tick of it asks for no stall. -/
theorem tickHdma_stall {s : State} (hm : s.cfg.baseOverride = []) (h : HdmaInv (s.cfg.base .vram) s.hdma) :
    (tickHdma s).hdma.stall = s.hdma.stall ∧ (tickHdma s).cfg = s.cfg := by
  simp only [tickHdma]
  split
  · exact ⟨rfl, rfl⟩
  · exact ⟨rfl, rfl⟩
  · split <;> exact ⟨rfl, rfl⟩
  · split <;> exact ⟨rfl, rfl⟩
  · simp [hdmaReadStep]
  · next hs =>
    have hb := busWrite_vram hm (h.dst (by simp [Hdma.busy, hs])) s.hdma.pending
    simp [hdmaWriteStep, hb]

/-! What the engines' ticks leave alone, whatever the map is. -/

theorem tickDma_frame (s : State) : (tickDma s).halfPhase = s.halfPhase ∧ (tickDma s).fault = s.fault ∧
    (tickDma s).pending = s.pending := by
  have hw : (dmaWork s.dma.cycle s).halfPhase = s.halfPhase ∧ (dmaWork s.dma.cycle s).fault = s.fault ∧
      (dmaWork s.dma.cycle s).pending = s.pending := by
    simp only [dmaWork]
    split
    · simp only [dmaWriteStep]
      split <;> simp
    · split
      · simp only [dmaReadStep, busRead_snd]
        split
        · simp only [dmaTakeSource]
          split <;> simp
        · simp
      · simp
  simp only [tickDma]
  split
  · split <;> simp [dmaEndStep, hw]
  · simp

theorem tickHdma_frame (s : State) : (tickHdma s).halfPhase = s.halfPhase ∧ (tickHdma s).fault = s.fault ∧
    (tickHdma s).pending = s.pending := by
  simp only [tickHdma]
  split
  · simp
  · simp
  · split <;> simp
  · split <;> simp
  · simp [hdmaReadStep]
  · simp [hdmaWriteStep]

theorem fastGroup_halfPhase (s : State) : (fastGroup s).halfPhase = s.halfPhase := by
  simp [fastGroup, tickDma_frame, tickSerial_frame, tickTimer_frame]

theorem slowGroup_halfPhase (s : State) : (slowGroup s).halfPhase = s.halfPhase := by
  simp [slowGroup, tickHdma_frame, tickApu_frame, tickPpu_frame]

/-- What every tick keeps: the invariant, the default map, and the stall that is owed. -/
def Owing (k : Nat) (s : State) : Prop := Inv s ∧ s.cfg.baseOverride = [] ∧ s.hdma.stall = k

theorem Owing.of_frame {k : Nat} {s t : State} (h : Owing k s) (hi : Inv t) (hc : t.cfg = s.cfg)
    (hs : t.hdma.stall = s.hdma.stall) : Owing k t := ⟨hi, hc ▸ h.2.1, hs.trans h.2.2⟩

theorem Owing.tickTimer {k : Nat} {s : State} (h : Owing k s) : Owing k (tickTimer s) :=
  h.of_frame h.1.tickTimer (tickTimer_frame s).1 (congrArg Hdma.stall (tickTimer_frame s).2.2.2.2.1)

theorem Owing.tickSerial {k : Nat} {s : State} (h : Owing k s) : Owing k (tickSerial s) :=
  h.of_frame h.1.tickSerial (tickSerial_frame s).1 (congrArg Hdma.stall (tickSerial_frame s).2.2.2.2.1)

theorem Owing.tickDma {k : Nat} {s : State} (h : Owing k s) : Owing k (tickDma s) :=
  h.of_frame h.1.tickDma (tickDma_hdma h.2.1 h.1.dma).2 (congrArg Hdma.stall (tickDma_hdma h.2.1 h.1.dma).1)

theorem Owing.tickPpu {k : Nat} {s : State} (h : Owing k s) : Owing k (tickPpu s) :=
  h.of_frame h.1.tickPpu (tickPpu_frame s).1 (congrArg Hdma.stall (tickPpu_frame s).2.2.2.1)

theorem Owing.tickApu {k : Nat} {s : State} (h : Owing k s) : Owing k (tickApu s) :=
  h.of_frame h.1.tickApu (tickApu_frame s).1 (congrArg Hdma.stall (tickApu_frame s).2.2.2.2.1)

theorem Owing.tickHdma {k : Nat} {s : State} (h : Owing k s) : Owing k (tickHdma s) :=
  h.of_frame h.1.tickHdma (tickHdma_stall h.2.1 h.1.hdma).2 (tickHdma_stall h.2.1 h.1.hdma).1

theorem Owing.setHalfPhase {k : Nat} {s : State} (b : Bool) (h : Owing k s) : Owing k (s.setHalfPhase b) :=
  ⟨h.1.setHalfPhase b, h.2⟩

theorem Owing.cycleTick {k : Nat} {s : State} (ds : Bool) (h : Owing k s) : Owing k (cycleTick ds s) := by
  have hf : Owing k (fastGroup s) := h.tickTimer.tickSerial.tickDma
  have hs : ∀ t, Owing k t → Owing k (slowGroup t) := fun _ ht => ht.tickPpu.tickApu.tickHdma
  simp only [Machine.cycleTick]
  split
  · split
    · exact hs _ (hf.setHalfPhase false)
    · exact hf.setHalfPhase true
  · exact hs _ (hf.setHalfPhase false)

theorem Owing.ioTick {k : Nat} {s : State} (n : Nat) (ds : Bool) (h : Owing k s) : Owing k (ioTick n ds s) := by
  simp only [Machine.ioTick]
  split
  · exact repeatN_keeps (P := Owing k) (fun _ h' => h'.cycleTick ds) n h
  · simp only [groupTick]
    have h1 := repeatN_keeps (P := Owing k) (fun _ h' => h'.tickTimer) n h
    have h2 := repeatN_keeps (P := Owing k) (fun _ h' => h'.tickSerial) n h1
    have h3 := Owing.setHalfPhase (halfPhaseAfter n ds s.halfPhase)
      (repeatN_keeps (P := Owing k) (fun _ h' => h'.tickDma) n h2)
    have h4 := repeatN_keeps (P := Owing k) (fun _ h' => h'.tickPpu) (slowCalls n ds s.halfPhase) h3
    have h5 := repeatN_keeps (P := Owing k) (fun _ h' => h'.tickApu) (slowCalls n ds s.halfPhase) h4
    exact repeatN_keeps (P := Owing k) (fun _ h' => h'.tickHdma) (slowCalls n ds s.halfPhase) h5

/-- A stall that is run off leaves none owed. -/
theorem takeStall_stall {s : State} (hm : s.cfg.baseOverride = []) (h : Inv s) : (takeStall s).hdma.stall = 0 := by
  have h0 : Owing 0 (s.setHdma { s.hdma with stall := 0 }) :=
    ⟨h.setHdma ⟨h.hdma.dst, h.hdma.remaining, h.hdma.idle⟩, hm, rfl⟩
  simp only [takeStall]
  split
  · exact (h0.ioTick _ _).2.2
  · exact (h0.ioTick _ _).2.2

/-! The general-purpose transfer ends with the stall. -/

/-- A general-purpose transfer that is under way needs at most `j` ticks. -/
def Hdma.Due (j : Nat) (h : Hdma) : Prop :=
  h.mode = .gp → h.busy = true → (h.state = .read ∧ 2 * h.remaining ≤ j) ∨ (h.state = .write ∧ 2 * h.remaining ≤ j + 1)

/-- A transfer that has no tick left is over. -/
theorem Hdma.Due.over {b : Addr} {h : Hdma} (hi : HdmaInv b h) (hd : h.Due 0) : ¬ (h.mode = .gp ∧ h.busy = true) := by
  rintro ⟨hm, hb⟩
  have hr : h.remaining ≠ 0 := fun h0 => by
    have := hi.idle.mpr h0
    simp [Hdma.busy, this] at hb
  obtain ⟨_, h1⟩ | ⟨_, h1⟩ := hd hm hb <;> omega

/-- A write of the control register owes the whole of a transfer it starts. -/
theorem writeControl_due (b : Addr) (v : Byte) (h : Hdma) :
    (h.writeControl b v).Due (h.writeControl b v).stall := by
  simp only [Hdma.writeControl]
  split
  · intro _ hb
    simp [Hdma.cancel, Hdma.busy] at hb
  · simp only [Hdma.start]
    split
    · intro hm
      simp at hm
    · intro _ _
      exact .inl ⟨rfl, by simp only []; omega⟩

/-- Every bus write owes the transfers it starts. -/
theorem writePlace_due {s : State} (p : Place) (off : Nat) (a : Addr) (v : Byte) (hb : Bool) (h : s.hdma.Due s.hdma.stall) :
    (writePlace p off a v hb s).hdma.Due (writePlace p off a v hb s).hdma.stall := by
  cases p
  case hdma5 => exact writeControl_due (s.cfg.base .vram) v s.hdma
  case vram => rw [writeVram_hdma]; exact h
  case oam => rw [writeOam_hdma]; exact h
  case lcdc =>
    simp only [writePlace, writeLcdc]
    split
    · simpa using h
    · split <;> simpa using h
  case stat => simpa [writePlace, writeStat] using h
  case lyc => simpa [writePlace, writeLyc] using h
  case dma =>
    simp only [writePlace, writeDma]
    split <;> simpa using h
  all_goals exact h

theorem busWrite_due {s : State} (a : Addr) (v : Byte) (hb : Bool) (h : s.hdma.Due s.hdma.stall) :
    (busWrite a v hb s).hdma.Due (busWrite a v hb s).hdma.stall :=
  busWrite_keeps (P := fun t => t.hdma.Due t.hdma.stall) h (fun p off a v hb _ => writePlace_due p off a v hb h) a v hb

/-- A tick of the engine brings a transfer nearer its end. -/
theorem tickHdma_due {s : State} (hm : s.cfg.baseOverride = []) (hi : HdmaInv (s.cfg.base .vram) s.hdma) {j : Nat}
    (h : s.hdma.Due (j + 1)) : (tickHdma s).hdma.Due j := by
  intro hmode hbusy
  cases hs : s.hdma.state with
  | idle =>
    have e : tickHdma s = s := by simp [tickHdma, hs]
    rw [e] at hbusy
    simp [Hdma.busy, hs] at hbusy
  | terminated =>
    have e : tickHdma s = s := by simp [tickHdma, hs]
    rw [e] at hbusy
    simp [Hdma.busy, hs] at hbusy
  | waitHBlank =>
    have hgp : s.hdma.mode = .gp := by
      simp only [tickHdma, hs] at hmode
      split at hmode <;> exact hmode
    have := h hgp (by simp [Hdma.busy, hs])
    simp [hs] at this
  | waitNotHBlank =>
    have hgp : s.hdma.mode = .gp := by
      simp only [tickHdma, hs] at hmode
      split at hmode <;> exact hmode
    have := h hgp (by simp [Hdma.busy, hs])
    simp [hs] at this
  | read =>
    have e : (tickHdma s).hdma = { s.hdma with
        pending := (tickHdma s).hdma.pending
        src := (tickHdma s).hdma.src
        state := .write } := by
      simp [tickHdma, hs, hdmaReadStep]
    rw [e] at hmode ⊢
    have := h hmode (by simp [Hdma.busy, hs])
    simp only [hs, reduceCtorEq, false_and, or_false, true_and] at this
    exact .inr ⟨rfl, this⟩
  | write =>
    have hd := hi.dst (by simp [Hdma.busy, hs])
    have hb := busWrite_vram hm hd s.hdma.pending
    have e : (tickHdma s).hdma = { s.hdma with
        dst := (tickHdma s).hdma.dst
        remaining := s.hdma.remaining - 1
        state := hdmaNextState s.hdma.mode (s.hdma.remaining - 1) } := by
      simp [tickHdma, hs, hdmaWriteStep, hb]
    rw [e] at hmode hbusy ⊢
    have := h hmode (by simp [Hdma.busy, hs])
    simp only [hs, reduceCtorEq, false_and, false_or, true_and] at this
    replace hmode : s.hdma.mode = .gp := hmode
    refine .inl ⟨?_, ?_⟩
    · simp only [hmode, hdmaNextState] at hbusy ⊢
      split at hbusy
      · simp [Hdma.busy] at hbusy
      · next h0 => simp [h0]
    · show 2 * (s.hdma.remaining - 1) ≤ j
      omega

/-- What a CPU step starts from: the invariant, the default map, and every transfer under way owed. -/
def Paying (j : Nat) (s : State) : Prop := Inv s ∧ s.cfg.baseOverride = [] ∧ s.hdma.Due j

theorem Paying.of_frame {j : Nat} {s t : State} (h : Paying j s) (hi : Inv t) (hc : t.cfg = s.cfg) (hs : t.hdma = s.hdma) :
    Paying j t := ⟨hi, hc ▸ h.2.1, hs ▸ h.2.2⟩

theorem Paying.tickTimer {j : Nat} {s : State} (h : Paying j s) : Paying j (tickTimer s) :=
  h.of_frame h.1.tickTimer (tickTimer_frame s).1 (tickTimer_frame s).2.2.2.2.1

theorem Paying.tickSerial {j : Nat} {s : State} (h : Paying j s) : Paying j (tickSerial s) :=
  h.of_frame h.1.tickSerial (tickSerial_frame s).1 (tickSerial_frame s).2.2.2.2.1

theorem Paying.tickDma {j : Nat} {s : State} (h : Paying j s) : Paying j (tickDma s) :=
  h.of_frame h.1.tickDma (tickDma_hdma h.2.1 h.1.dma).2 (tickDma_hdma h.2.1 h.1.dma).1

theorem Paying.fastGroup {j : Nat} {s : State} (h : Paying j s) : Paying j (fastGroup s) := h.tickTimer.tickSerial.tickDma

theorem Paying.tickHdma {j : Nat} {s : State} (h : Paying (j + 1) s) : Paying j (tickHdma s) :=
  ⟨h.1.tickHdma, by rw [(tickHdma_stall h.2.1 h.1.hdma).2]; exact h.2.1, tickHdma_due h.2.1 h.1.hdma h.2.2⟩

theorem Paying.tickPpu {j : Nat} {s : State} (h : Paying j s) : Paying j (tickPpu s) :=
  h.of_frame h.1.tickPpu (tickPpu_frame s).1 (tickPpu_frame s).2.2.2.1

theorem Paying.tickApu {j : Nat} {s : State} (h : Paying j s) : Paying j (tickApu s) :=
  h.of_frame h.1.tickApu (tickApu_frame s).1 (tickApu_frame s).2.2.2.2.1

theorem Paying.slowGroup {j : Nat} {s : State} (h : Paying (j + 1) s) : Paying j (slowGroup s) := h.tickPpu.tickApu.tickHdma

theorem Paying.setHalfPhase {j : Nat} {s : State} (b : Bool) (h : Paying j s) : Paying j (s.setHalfPhase b) :=
  ⟨h.1.setHalfPhase b, h.2⟩

theorem Paying.mono {i j : Nat} {s : State} (hij : i ≤ j) (h : Paying i s) : Paying j s := by
  refine ⟨h.1, h.2.1, fun hm hb => ?_⟩
  obtain ⟨h1, h2⟩ | ⟨h1, h2⟩ := h.2.2 hm hb
  · exact .inl ⟨h1, by omega⟩
  · exact .inr ⟨h1, by omega⟩

/-- What a function does `k` times. -/
theorem repeatN_paying {f : State → State} (hf : ∀ j s, Paying (j + 1) s → Paying j (f s)) (k : Nat) {j : Nat} {s : State}
    (h : Paying (j + k) s) : Paying j (repeatN k f s) := by
  induction k generalizing s with
  | zero => exact h
  | succ k ih => exact ih (hf _ _ h)

theorem Paying.cycleTick_normal {j : Nat} {s : State} (h : Paying (j + 1) s) : Paying j (cycleTick false s) :=
  Paying.slowGroup (h.fastGroup.setHalfPhase false)

/-- In double speed two cycles hold one tick of the engine, whichever of them it is. -/
theorem Paying.cycleTick_double {j : Nat} {s : State} (h : Paying (j + 1) s) :
    Paying j (cycleTick true (cycleTick true s)) := by
  have hf := h.fastGroup
  have e := fastGroup_halfPhase s
  cases hp : s.halfPhase with
  | true =>
    have e1 : Machine.cycleTick true s = Machine.slowGroup ((Machine.fastGroup s).setHalfPhase false) := by
      simp [Machine.cycleTick, e, hp]
    have h1 : Paying j (Machine.cycleTick true s) := by
      rw [e1]
      exact Paying.slowGroup (hf.setHalfPhase false)
    have p1 : (Machine.cycleTick true s).halfPhase = false := by rw [e1, slowGroup_halfPhase]; rfl
    have e2 := fastGroup_halfPhase (Machine.cycleTick true s)
    generalize Machine.cycleTick true s = t at *
    have e3 : Machine.cycleTick true t = (Machine.fastGroup t).setHalfPhase true := by
      simp [Machine.cycleTick, e2, p1]
    rw [e3]
    exact h1.fastGroup.setHalfPhase true
  | false =>
    have e1 : Machine.cycleTick true s = (Machine.fastGroup s).setHalfPhase true := by
      simp [Machine.cycleTick, e, hp]
    have h1 : Paying (j + 1) (Machine.cycleTick true s) := by
      rw [e1]
      exact hf.setHalfPhase true
    have p1 : (Machine.cycleTick true s).halfPhase = true := by rw [e1]; rfl
    have e2 := fastGroup_halfPhase (Machine.cycleTick true s)
    generalize Machine.cycleTick true s = t at *
    have e3 : Machine.cycleTick true t = Machine.slowGroup ((Machine.fastGroup t).setHalfPhase false) := by
      simp [Machine.cycleTick, e2, p1]
    rw [e3]
    exact Paying.slowGroup (h1.fastGroup.setHalfPhase false)

theorem repeatN_double (k : Nat) (f : State → State) (s : State) : repeatN (2 * k) f s = repeatN k (fun t => f (f t)) s := by
  induction k generalizing s with
  | zero => rfl
  | succ k ih => exact ih (f (f s))

/-- So many ticks end it: one cycle each in normal speed, two in double. -/
theorem Paying.ioTick {k : Nat} {s : State} (ds : Bool) (h : Paying k s) :
    Paying 0 (ioTick (if ds = true then 2 * k else k) ds s) := by
  simp only [Machine.ioTick]
  split
  · cases ds with
    | false => exact repeatN_paying (fun _ _ h' => h'.cycleTick_normal) k (by simpa using h)
    | true =>
      simp only [if_true, repeatN_double]
      exact repeatN_paying (fun _ _ h' => h'.cycleTick_double) k (by simpa using h)
  · have hk : slowCalls (if ds = true then 2 * k else k) ds s.halfPhase = k := by
      cases ds
      · rfl
      · simp only [slowCalls, if_true]
        cases s.halfPhase <;> simp only [Bool.toNat_false, Bool.toNat_true] <;> omega
    simp only [groupTick, hk]
    generalize (if ds = true then 2 * k else k) = n
    have h1 := repeatN_keeps (P := Paying k) (fun _ h' => h'.tickTimer) n h
    have h2 := repeatN_keeps (P := Paying k) (fun _ h' => h'.tickSerial) n h1
    have h3 := Paying.setHalfPhase (halfPhaseAfter n ds s.halfPhase)
      (repeatN_keeps (P := Paying k) (fun _ h' => h'.tickDma) n h2)
    have h4 := repeatN_keeps (P := Paying k) (fun _ h' => h'.tickPpu) k h3
    have h5 := repeatN_keeps (P := Paying k) (fun _ h' => h'.tickApu) k h4
    exact repeatN_paying (fun _ _ h' => h'.tickHdma) k (by simpa using h5)

/-- A stall that is run off ends the general-purpose transfer it is owed for (R102, R308). -/
theorem takeStall_over {s : State} (h : Paying s.hdma.stall s) :
    ¬ ((takeStall s).hdma.mode = .gp ∧ (takeStall s).hdma.busy = true) := by
  have h0 : Paying s.hdma.stall (s.setHdma { s.hdma with stall := 0 }) :=
    ⟨h.1.setHdma ⟨h.1.hdma.dst, h.1.hdma.remaining, h.1.hdma.idle⟩, h.2.1, h.2.2⟩
  have h1 := h0.ioTick s.cpu.doubleSpeed
  have e : takeStall s = ioTick (if s.cpu.doubleSpeed = true then 2 * s.hdma.stall else s.hdma.stall) s.cpu.doubleSpeed
      (s.setHdma { s.hdma with stall := 0 }) := by
    cases hd : s.cpu.doubleSpeed <;> simp [takeStall, hd]
  rw [e]
  exact h1.2.2.over h1.1.hdma

end Sys2Proof.Machine
end

