-- ==== Sys2Proof/Tests/Slice0.lean ====
section
/-! SUPPORT. Tests: ill-formed terms refused, decoding from words written out from the operation table, single steps whose
results are the spec's own vectors (95_test_vectors.md), and for each statement with hypotheses a state that meets them. -/

namespace Sys2Proof.Tests

set_option Elab.async false

open Sys2Proof.Machine

/-! Helpers. -/

/-- Every handler registered. -/
def allRegistered (s : State) : State := s.setBus { s.bus with registered := HandlerId.all }

/-- The state S0 of the vectors, in CGB mode. -/
def live : State := allRegistered State.reset

/-- S0 in DMG mode: the HDMA engine claims nothing there. -/
def liveDmg : State := (State.powerOn { Config.default with hwMode := .dmg }).setBus
  { State.reset.bus with registered := HandlerId.all.filter fun h => h != .hdma }

/-- `REGISTER 0` to `REGISTER 10` after `RESET` (R510). -/
theorem test_registration :
    (HandlerId.all.foldl (fun s h => registerHandler h s) State.reset).bus.registered = live.bus.registered ∧
    (HandlerId.all.foldl (fun s h => registerHandler h s) (State.powerOn { Config.default with hwMode := .dmg })).bus.registered =
      liveDmg.bus.registered := by decide +kernel

/-- A part of the next state. -/
def after {α : Type} (o : Host.Outcome State Fault Refusal) (f : State → α) : Option α :=
  match o with
  | .next t => some (f t)
  | .fault _ => none
  | .refused _ => none

/-- Every word decodes to the operation beside it. -/
def decodesTo (l : List (Nat × Instr)) : Bool :=
  l.all fun e => match decode (BitVec.ofNat 30 e.1) with
    | .ok i => decide (i = e.2)
    | .error _ => false

/-- Every word is refused. -/
def refuses (l : List Nat) : Bool :=
  l.all fun w => match decode (BitVec.ofNat 30 w) with
    | .ok _ => false
    | .error _ => true

def withTimer (t : Timer → Timer) : State := live.setTimer (t live.timer)
def withPpu (p : Ppu → Ppu) : State := live.setPpu (p live.ppu)
def withApu (a : Apu → Apu) : State := live.setApu (a { live.apu with power := true })
def withConfig (c : Config → Config) : State := allRegistered (State.powerOn (c Config.default))

/-- The LCD on, sprites and background enabled, at a mode, line and dot. -/
def lit (m : Mode) (ly dot : Nat) (p : Ppu → Ppu) : State :=
  withPpu fun q => p { q with lcdc := 0x93#8, mode := m, ly := ly, lineTicks := dot }

/-! Well-formedness: what the checks refuse. -/

theorem test_wf_read_of_a_register : (Instr.rd true 0xFF04#16).wf = false := by decide
theorem test_wf_write_of_vram : (Instr.wr true 0x8000#16 0x00#8).wf = false := by decide
theorem test_wf_oam_read_index : (Instr.rdOam true 0xA0#8).wf = false := by decide
theorem test_wf_oam_write_index : (Instr.wrOam true 0xFF#8 0x00#8).wf = false := by decide
theorem test_wf_accepts :
    [Instr.rd true 0xFEA0#16, .wr false 0xFF0F#16 0x01#8, .rdOam true 0x9F#8, .wrVram true 0x1FFF#13 0x00#8].all Instr.wf = true := by
  decide

/-! Decoding: words from the rows of the operation table, each with its own data byte. -/

theorem test_decode_timer : decodesTo [
    (0x02FF0400, .rdDiv true), (0x01FF0459, .wrDiv false 0x59#8), (0x00FF0500, .rdTima false), (0x03FF0521, .wrTima true 0x21#8),
    (0x02FF0600, .rdTma true), (0x03FF0669, .wrTma true 0x69#8), (0x02FF0700, .rdTac true), (0x01FF0731, .wrTac false 0x31#8)] = true := by decide +kernel

theorem test_decode_mixer : decodesTo [
    (0x00FF1000, .rdNr10 false), (0x02FF1100, .rdNr11 true), (0x02FF1200, .rdNr12 true), (0x00FF1300, .rdNr13 false),
    (0x02FF1400, .rdNr14 true), (0x02FF1600, .rdNr21 true), (0x00FF1700, .rdNr22 false), (0x02FF1800, .rdNr23 true),
    (0x02FF1900, .rdNr24 true), (0x00FF1A00, .rdNr30 false), (0x02FF1B00, .rdNr31 true), (0x02FF1C00, .rdNr32 true),
    (0x00FF1D00, .rdNr33 false), (0x02FF1E00, .rdNr34 true), (0x02FF2000, .rdNr41 true), (0x00FF2100, .rdNr42 false),
    (0x02FF2200, .rdNr43 true), (0x02FF2300, .rdNr44 true), (0x00FF2400, .rdNr50 false), (0x03FF2409, .wrNr50 true 0x09#8),
    (0x02FF2500, .rdNr51 true), (0x03FF25D1, .wrNr51 true 0xD1#8), (0x02FF2600, .rdNr52 true), (0x01FF2619, .wrNr52 false 0x19#8)] = true := by decide +kernel

theorem test_decode_channels : decodesTo [
    (0x03FF1079, .wrNr10 true 0x79#8), (0x03FF1141, .wrNr11 true 0x41#8), (0x01FF1289, .wrNr12 false 0x89#8), (0x03FF1351, .wrNr13 true 0x51#8),
    (0x03FF1499, .wrNr14 true 0x99#8), (0x01FF1661, .wrNr21 false 0x61#8), (0x03FF17A9, .wrNr22 true 0xA9#8), (0x03FF1871, .wrNr23 true 0x71#8),
    (0x01FF19B9, .wrNr24 false 0xB9#8), (0x03FF1A81, .wrNr30 true 0x81#8), (0x03FF1BC9, .wrNr31 true 0xC9#8), (0x01FF1C91, .wrNr32 false 0x91#8),
    (0x03FF1DD9, .wrNr33 true 0xD9#8), (0x03FF1EA1, .wrNr34 true 0xA1#8), (0x01FF20E9, .wrNr41 false 0xE9#8), (0x03FF21B1, .wrNr42 true 0xB1#8),
    (0x03FF22F9, .wrNr43 true 0xF9#8), (0x01FF23C1, .wrNr44 false 0xC1#8)] = true := by decide +kernel

theorem test_decode_ppu : decodesTo [
    (0x02FF4000, .rdLcdc true), (0x03FF40E1, .wrLcdc true 0xE1#8), (0x02FF4100, .rdStat true), (0x01FF4129, .wrStat false 0x29#8),
    (0x00FF4200, .rdScy false), (0x03FF42F1, .wrScy true 0xF1#8), (0x02FF4300, .rdScx true), (0x03FF4339, .wrScx true 0x39#8),
    (0x02FF4400, .rdLy true), (0x01FF4401, .wrLy false 0x01#8), (0x00FF4500, .rdLyc false), (0x03FF4549, .wrLyc true 0x49#8),
    (0x02FF4700, .rdBgp true), (0x01FF4759, .wrBgp false 0x59#8), (0x00FF4800, .rdObp0 false), (0x03FF4821, .wrObp0 true 0x21#8),
    (0x02FF4900, .rdObp1 true), (0x03FF4969, .wrObp1 true 0x69#8), (0x02FF4A00, .rdWy true), (0x01FF4A31, .wrWy false 0x31#8),
    (0x00FF4B00, .rdWx false), (0x03FF4B79, .wrWx true 0x79#8)] = true := by decide +kernel

theorem test_decode_oam_dma : decodesTo [
    (0x02FF4600, .rdDma true), (0x03FF4611, .wrDma true 0x11#8)] = true := by decide +kernel

theorem test_decode_ppu_cgb : decodesTo [
    (0x02FF4F00, .rdVbk true), (0x03FF4F41, .wrVbk true 0x41#8), (0x02FF6800, .rdBcps true), (0x03FF6871, .wrBcps true 0x71#8),
    (0x02FF6900, .rdBcpd true), (0x01FF69B9, .wrBcpd false 0xB9#8), (0x00FF6A00, .rdOcps false), (0x03FF6A81, .wrOcps true 0x81#8),
    (0x02FF6B00, .rdOcpd true), (0x03FF6BC9, .wrOcpd true 0xC9#8), (0x02FF6C00, .rdOpri true), (0x01FF6C91, .wrOpri false 0x91#8)] = true := by decide +kernel

theorem test_decode_hdma : decodesTo [
    (0x02FF5100, .rdHdma1 true), (0x01FF5189, .wrHdma1 false 0x89#8), (0x00FF5200, .rdHdma2 false), (0x03FF5251, .wrHdma2 true 0x51#8),
    (0x02FF5300, .rdHdma3 true), (0x03FF5399, .wrHdma3 true 0x99#8), (0x02FF5400, .rdHdma4 true), (0x01FF5461, .wrHdma4 false 0x61#8),
    (0x00FF5500, .rdHdma5 false), (0x03FF55A9, .wrHdma5 true 0xA9#8)] = true := by decide +kernel

theorem test_decode_memories : decodesTo [
    (0x02800000, .rdVram true 0x0000#13), (0x009FFF00, .rdVram false 0x1FFF#13), (0x03901234, .wrVram true 0x1012#13 0x34#8),
    (0x02FE0000, .rdOam true 0x00#8), (0x00FE9F00, .rdOam false 0x9F#8), (0x01FE1012, .wrOam false 0x10#8 0x12#8),
    (0x03FE80AB, .wrOam true 0x80#8 0xAB#8), (0x02FF3000, .rdWave true 0x0#4), (0x01FF3FCD, .wrWave false 0xF#4 0xCD#8)] = true := by
  decide +kernel

theorem test_decode_bus : decodesTo [
    (0x027FFF00, .rd true 0x7FFF#16), (0x00C00000, .rd false 0xC000#16), (0x02FEA000, .rd true 0xFEA0#16),
    (0x03FF0F00, .wr true 0xFF0F#16 0x00#8), (0x01FFFF1F, .wr false 0xFFFF#16 0x1F#8), (0x02FF0455, .rdDiv true),
    (0x08000001, .block .oam true), (0x08000002, .block .general false), (0x0C000000, .register .cartridge),
    (0x0C00000A, .register .hdma), (0x10000005, .unregister .timer), (0x14000000, .reset)] = true := by decide +kernel

theorem test_decode_ticks : decodesTo [
    (0x04000284, .iotick 644#16), (0x0400FFFF, .iotick 0xFFFF#16), (0x04010003, .iotick2 3#16), (0x1C000000, .tickTimer),
    (0x1C000001, .tickSerial), (0x1C000002, .tickDma), (0x1C000003, .tickPpu), (0x1C000004, .tickApu),
    (0x1C000005, .tickHdma)] = true := by decide +kernel

/-- E13 and E14. -/
theorem test_decode_refuses : refuses [0x18000000, 0x20000000, 0x3C000000, 0x1C000006, 0x0C00000B, 0x04020001, 0x08000004,
    0x14000001] = true := by decide +kernel

/-- The bytes of a table word, and the fetch of it: `WR TAC, 5` runs as the first operation after reset. -/
theorem test_table_word : decodeTableWord 32 0x03FF0705 = some (.wrTac true 0x05#8) := by decide +kernel
theorem test_fetch : after (step (State.reset.withFetchWord 32 0x0C000005)) (fun t => (t.bus.registered, t.pending)) =
    some ([.timer], []) := by decide +kernel
theorem test_reset_state_idles : after (step State.reset) (fun t => t.trace) = some [] := by decide +kernel

/-! The dispatcher: vectors B1, B3, B5, B7, B8. -/

theorem test_unmapped_read : after (exec (.rdDiv true) State.reset) (fun t => t.rdata) = some (some 0xFF#8) := by decide +kernel
theorem test_blocked_oam_read :
    after (exec (.rdOam true 0x10#8) ((withPpu fun p => p.writeOam 0x10 0x3C#8).setBlocked .oam true)) (fun t => t.rdata) =
      some (some 0xFF#8) := by decide +kernel
theorem test_unhonoured_block_passes :
    after (exec (.rdOam false 0x10#8) ((withPpu fun p => p.writeOam 0x10 0x3C#8).setBlocked .oam true)) (fun t => t.rdata) =
      some (some 0x3C#8) := by decide +kernel
theorem test_block_is_a_flag :
    after (exec (.block .oam false) (live.setBlocked .oam true)) (fun t => t.bus.blocked .oam) = some false := by decide +kernel
theorem test_quirk :
    after (exec (.rd true 0x0000#16) ((withConfig fun c => { c with extBlockQuirk := true }).setBus
      { live.bus with blockedGeneral := true, lastDmaByte := 0x9F#8 })) (fun t => t.rdata) = some (some 0x9F#8) := by decide +kernel

/-- The configuration of B7: the DMA register at the address of LYC. -/
def clash : State := (State.powerOn { Config.default with baseOverride := [(.dma, 0xFF45#16)] }).setBus
  { State.reset.bus with registered := [.ppu] }

theorem test_duplicate_claim :
    after (exec (.register .oamDma) clash) (fun t => (t.fault, t.bus.registered)) =
      some (some (.duplicateClaim .oamDma 0xFF45#16), [.ppu]) := by decide +kernel
theorem test_unregister : after (exec (.unregister .timer) live) (fun t => ownerOf t 0xFF04#16) = some none := by decide +kernel
theorem test_reset_leaves_the_fault_state :
    after (exec .reset (raiseFault (.duplicateClaim .oamDma 0xFF45#16) clash)) (fun t => (t.fault, t.bus.registered)) =
      some (none, []) := by decide +kernel

/-! The Timer: vectors S2, T1, T4, T6, S3, P2, T10. -/

theorem test_tac_glitch :
    after (exec (.wrTac true 0x00#8) (withTimer fun t => { t with tac := 5#3, selBit := .bit3, counter := 0x0208#16, tima := 0x40#8 }))
      (fun t => (t.timer.tima, t.timer.tac, t.timer.counter)) = some (0x41#8, 0#3, 0x0208#16) := by decide +kernel
theorem test_tac_select :
    after (exec (.wrTac true 0x06#8) (withTimer fun t => { t with tac := 5#3, selBit := .bit3, counter := 0x0008#16, tima := 0x10#8 }))
      (fun t => (t.timer.tima, t.timer.selBit)) = some (0x11#8, .bit5) := by decide +kernel
theorem test_div_write :
    after (exec (.wrDiv true 0x55#8) (withTimer fun t => { t with tac := 4#3, counter := 0x0200#16, tima := 7#8 }))
      (fun t => (t.timer.tima, t.timer.counter)) = some (8#8, 0#16) := by decide +kernel
theorem test_timer_overflow :
    after (exec .tickTimer (withTimer fun t => { t with tac := 5#3, selBit := .bit3, counter := 0x000F#16, tima := 0xFF#8, tma := 0x23#8 }))
      (fun t => (t.timer.tima, t.timer.reloadCtr, t.cpu.ifr)) = some (0#8, 8, 0#8) := by decide +kernel
theorem test_timer_reload :
    after (exec .tickTimer (withTimer fun t => { t with tac := 5#3, selBit := .bit3, counter := 0x0013#16, tma := 0x23#8, reloadCtr := 5 }))
      (fun t => (t.timer.tima, t.timer.reloadCtr, t.cpu.ifr)) = some (0x23#8, 4, 0x04#8) := by decide +kernel
theorem test_tima_write_lost :
    after (exec (.wrTima true 0x77#8) (withTimer fun t => { t with tima := 0x23#8, reloadCtr := 3 })) (fun t => t.timer.tima) =
      some 0x23#8 := by decide +kernel
theorem test_tma_write_in_hold :
    after (exec (.wrTma true 0x11#8) (withTimer fun t => { t with tma := 0x99#8, tima := 0x99#8, reloadCtr := 4 }))
      (fun t => (t.timer.tma, t.timer.tima)) = some (0x11#8, 0x99#8) := by decide +kernel

/-! The PPU: vectors L2, L7, L14, L16, L17, X2, R223's scan vectors, Z5, Z6. -/

theorem test_vblank :
    after (exec .tickPpu (lit .hblank 143 455 id)) (fun t => (t.ppu.ly, t.ppu.mode, t.cpu.ifr, t.trace.length)) =
      some (144, .vblank, 0x01#8, 1) := by decide +kernel
theorem test_stat_write_raises :
    after (exec (.wrStat true 0x40#8) live) (fun t => (t.ppu.statLine, t.cpu.ifr)) = some (true, 0x02#8) := by decide +kernel
theorem test_stat_read :
    after (exec (.rdStat true) (withPpu fun p => { p with statEn := 0xF#4 })) (fun t => t.rdata) = some (some 0xFC#8) := by
  decide +kernel
theorem test_lcd_off :
    after (exec (.wrLcdc true 0x11#8) (lit .pixelTransfer 50 100 id)) (fun t => (t.ppu.ly, t.ppu.lineTicks, t.ppu.mode)) =
      some (0, 0, .hblank) := by decide +kernel
theorem test_ly_write_ignored : after (exec (.wrLy true 0x55#8) live) (fun t => t.ppu.ly) = some 0 := by decide +kernel
theorem test_pixel_shade :
    after (exec .tickPpu (liveDmg.setPpu
      (lit .pixelTransfer 0 100 fun p => { p with bgp := 0x1B#8, bgFifo := [⟨3#2, 0#3, false, 0⟩] }).ppu))
      (fun t => (t.ppu.lx, t.ppu.fb)) = some (1, [(0, 0x7FFF#15)]) := by decide +kernel
theorem test_scan_selects :
    after (exec .tickPpu (lit .oamScan 0 1 fun p => (p.writeOam 0 16#8).writeOam 1 8#8)) (fun t => t.ppu.spritesAt) =
      some [(0, [⟨0, 16#8, 8#8⟩])] := by decide +kernel
theorem test_palette_write :
    after (exec (.wrBcpd true 0x11#8) (withPpu fun p => { p with bcps := 0xBF#8 })) (fun t => (t.ppu.bgPal, t.ppu.bcps)) =
      some ([(63, 0x11#8)], 0x80#8) := by decide +kernel
theorem test_opri_read : after (exec (.rdOpri true) (withPpu fun p => { p with opri := 1#1 })) (fun t => t.rdata) =
    some (some 0xFF#8) := by decide +kernel
theorem test_vbk_write : after (exec (.wrVbk true 0xFE#8) live) (fun t => t.ppu.vbk) = some 0#1 := by decide +kernel
theorem test_vram_bank :
    after (exec (.wrVram true 0x0000#13 0x5A#8) (withPpu fun p => { p with vbk := 1#1 })) (fun t => t.ppu.vram) =
      some [(0x2000, 0x5A#8)] := by decide +kernel

/-! The DMA engines: vectors D2, D1 (n = 2 and n = 644), H1, H5, H10. -/

theorem test_dma_source : after (exec (.wrDma true 0xF0#8) live) (fun t => (t.dma.source, t.dma.reg, t.bus.blockedOam)) =
    some (0xD000#16, 0xF0#8, true) := by decide +kernel
theorem test_dma_first_read :
    after (exec .tickDma ((live.setDma { live.dma with active := true, cycle := 1, source := 0xC100#16 }).setExt
      { live.ext with wram := [(0x100, 0x77#8)] })) (fun t => (t.dma.pending, t.dma.readIdx, t.bus.blockedGeneral)) =
      some (0x77#8, 1, true) := by decide +kernel
theorem test_dma_end :
    after (exec .tickDma ((live.setDma { live.dma with active := true, cycle := 643 }).setBlocked .oam true))
      (fun t => (t.dma.active, t.dma.cycle, t.bus.blockedOam)) = some (false, 0, false) := by decide +kernel
theorem test_hdma_start :
    after (exec (.wrHdma5 true 0x00#8) (live.setHdma { live.hdma with srcHi := 0xC1#8, srcLo := 0x2F#8, dstHi := 0xF8#8, dstLo := 0x47#8 }))
      (fun t => (t.hdma.src, t.hdma.dst, t.hdma.remaining, t.hdma.stall, t.hdma.state)) =
      some (0xC120#16, 0x9840#16, 16, 32, .read) := by decide +kernel
theorem test_hdma_status :
    after (exec (.rdHdma5 true) (live.setHdma { live.hdma with state := .terminated, remaining := 48 })) (fun t => t.rdata) =
      some (some 0x82#8) := by decide +kernel
theorem test_hdma_destination_wraps :
    after (exec .tickHdma (live.setHdma { live.hdma with state := .write, dst := 0x9FFF#16, remaining := 17, pending := 0xAF#8 }))
      (fun t => (t.ppu.vram, t.hdma.dst, t.hdma.remaining)) = some ([(0x1FFF, 0xAF#8)], 0x8000#16, 16) := by decide +kernel

/-! The APU: vectors A1, A3, A7, A9, A14, A15, A17 to A20, M1, M10. -/

theorem test_nr11_ignored : after (exec (.wrNr11 true 0x80#8) live) (fun t => t.apu.nr11) = some 0x00#8 := by decide +kernel
theorem test_nr52_read : after (exec (.rdNr52 true) (withApu fun a => { a with c1 := ⟨true, 0, false⟩ })) (fun t => t.rdata) =
    some (some 0xF1#8) := by decide +kernel
theorem test_trigger_length :
    after (exec (.wrNr24 true 0xC0#8) (withApu fun a => { a with nr22 := 0xF0#8, fsLast := some 2 }))
      (fun t => (t.apu.c2.length, t.apu.c2.enabled)) = some (63, true) := by decide +kernel
theorem test_trigger_wave_length :
    after (exec (.wrNr34 true 0xC0#8) (withApu fun a => { a with nr30 := 0x80#8, fsLast := some 3 }))
      (fun t => (t.apu.c3.length, t.apu.c3.enabled)) = some (256, true) := by decide +kernel
theorem test_nr31_length : after (exec (.wrNr31 true 0xFF#8) (withApu id)) (fun t => t.apu.c3.length) = some 1 := by decide +kernel
theorem test_sweep_trigger_overflow :
    after (exec (.wrNr14 true 0x87#8) (withApu fun a => { a with nr12 := 0xF0#8, nr10 := 0x01#8, nr13 := 0xFF#8 }))
      (fun t => (t.apu.c1.enabled, t.apu.sweep)) = some (false, ⟨0x7FF#11, 8, true⟩) := by decide +kernel
theorem test_sweep_clock :
    after (exec .tickApu (withApu fun a => { a with nr10 := 0x11#8, nr14 := 0x04#8, fsCounter := 8191, fsStep := 2, sweep := ⟨0x400#11, 1, true⟩ }))
      (fun t => (t.apu.sweep, t.apu.nr13, t.apu.nr14)) = some (⟨0x600#11, 1, true⟩, 0x00#8, 0x06#8) := by decide +kernel
theorem test_nr10_write : after (exec (.wrNr10 true 0xFF#8) (withApu id)) (fun t => t.apu.nr10) = some 0x7F#8 := by decide +kernel
theorem test_noise_trigger :
    after (exec (.wrNr44 true 0x80#8) (withApu fun a => { a with nr42 := 0xF0#8 })) (fun t => (t.apu.g4, t.apu.e4.vol)) =
      some (⟨8, 0x7FFF#15⟩, 15#4) := by decide +kernel
theorem test_noise_step : NoiseGen.tick 0x08#8 ⟨1, 0x7FFF#15⟩ = ⟨8, 0x3FBF#15⟩ := by decide
theorem test_square_sample :
    ([1#3, 2#3, 3#3, 7#3, 0#3].map fun p => SquareGen.sample 0x80#8 10#4 ⟨4, p⟩) = [10#4, 10#4, 0#4, 10#4, 10#4] := by decide
theorem test_wave_step : WaveGen.tick 2 [0x12#8, 0x34#8] ⟨1, 0#5, 0#4⟩ = ⟨2, 1#5, 2#4⟩ := by decide
theorem test_power_off :
    after (exec (.wrNr52 true 0x7F#8) (withApu fun a => { a with nr50 := 0x77#8, wave := [(0, 0xAB#8)], e1 := ⟨15#4, 3⟩ }))
      (fun t => (t.apu.power, t.apu.nr50, t.apu.wave, t.apu.e1.vol)) = some (false, 0x00#8, [(0, 0xAB#8)], 0#4) := by decide +kernel

/-- M1: channel 1 at 15 to the right, channel 2 at 5 to the left, both volumes 7. -/
theorem test_mix :
    after (exec .tickApu (withApu fun a => { a with
      nr11 := 0xC0#8, nr21 := 0xC0#8, nr50 := 0x77#8, nr51 := 0x21#8, c1 := ⟨true, 0, false⟩, c2 := ⟨true, 0, false⟩,
      e1 := ⟨15#4, 0⟩, e2 := ⟨5#4, 0⟩, g1 := ⟨9, 1#3⟩, g2 := ⟨9, 1#3⟩, sampleCtr := 1 })) (fun t => t.trace) =
      some [.sample (1 / 12) (1 / 4)] := by decide +kernel

/-! The fan-out and the CPU's side: vectors F1, R319, R445, R473, R475. -/

theorem test_double_speed :
    after (exec (.iotick2 3#16) (lit .oamScan 0 0 id)) (fun t => (t.timer.counter, t.ppu.lineTicks, t.halfPhase)) =
      some (3#16, 1, true) := by decide +kernel
theorem test_iotick_zero : after (exec (.iotick 0#16) (withTimer fun t => { t with counter := 7#16 })) (fun t => t.timer.counter) =
    some 7#16 := by decide +kernel
theorem test_halt_bug :
    after (step ((live.setCpu { live.cpu with pc := 0xC000#16, haltBug := true }).setPending [.cpuAct .fetch]))
      (fun t => (t.cpu.pc, t.cpu.haltBug)) = some (0xC000#16, false) := by decide +kernel
theorem test_transfer_in_one_tick :
    after (step (live.setPending [.cpuTick [.write 0xFF55#16 0x00#8] 4#16 4#16]))
      (fun t => (t.hdma.state, t.hdma.stall, t.timer.counter)) = some (.idle, 0, 36#16) := by decide +kernel
theorem test_stall_before_act :
    after (step ((live.setHdma { live.hdma with stall := 32 }).setPending [.cpuAct (.read 0xFF05#16)]))
      (fun t => (t.hdma.stall, t.timer.counter, t.rdata)) = some (0, 32#16, some 0#8) := by decide +kernel
theorem test_vectors : (List.range 5).map vectorOf = [0x40#16, 0x48#16, 0x50#16, 0x58#16, 0x60#16] := by decide

/-! Witnesses: for each statement with hypotheses, a state and operands that meet them together, each clause at a boundary. -/

theorem live_inv : Inv live := by
  have h : ∀ (l : List HandlerId) (s : State), Inv s → Inv (l.foldl (fun s h => registerHandler h s) s) := by
    intro l
    induction l with
    | nil => exact fun _ h => h
    | cons k l ih => exact fun s h => ih _ (h.registerHandler k)
  have hi := h HandlerId.all _ (Inv.powerOn Config.default)
  have hp := Inv.powerOn Config.default
  exact { hp with
    bus := hi.bus.of_eq test_registration.1.symm (by decide +kernel)
    external := ⟨hp.external.wram, hp.external.hram, hp.external.flags⟩ }

/-- An access to S0 meets no block. -/
theorem live_free (a : Addr) (hb : Bool) : ¬ AccessBlocked live a hb := by
  rintro ⟨_, g, _, h⟩
  cases g <;> exact absurd h (by decide)

/-- Every row's register is reached in S0 by its own address, the memories at both ends. -/
theorem live_reached : (∀ p ∈ Place.inTable, Reached live p 0 true ∧ Reached live p 0 false) ∧
    Reached live .vram 0x1FFF true ∧ Reached live .oam 159 true ∧ Reached live .wave 15 true := by
  simp only [Reached]
  decide +kernel

theorem live_map : live.defaultMap ∧ liveDmg.defaultMap ∧ State.reset.defaultMap := ⟨⟨rfl, rfl⟩, ⟨rfl, rfl⟩, ⟨rfl, rfl⟩⟩

theorem witness_DecodeOfEncode : (Instr.wrOam true 0x9F#8 0x00#8).wf = true ∧ (Instr.rd false 0xFEA0#16).wf = true := by decide

theorem witness_EncodeOfDecode :
    (decode 0x02FF0400#30 = .ok (.rdDiv true) ∧ wordData 0x02FF0400#30 = 0#8) ∧
    (decode 0x03FF0755#30 = .ok (.wrTac true 0x55#8) ∧ wordRw 0x03FF0755#30 = true) := by decide +kernel

theorem witness_StepRunsDecodedOperation :
    ((live.setPending [.word 0x1C000000#30]).pending = .word 0x1C000000#30 :: [] ∧ decode 0x1C000000#30 = .ok .tickTimer ∧
      live.fault = none ∧ decode 0x18000000#30 = .error (.reservedClass 6#4)) ∧
    live.pending = [] ∧ decodeTableWord 32 0x1C000000 = some .tickTimer := by decide +kernel

theorem witness_FaultStateAcceptsResetOnly :
    (let s := (raiseFault (.duplicateClaim .oamDma 0xFF45#16) live).setPending [.word 0x14000000#30, .press .a]
     s.fault = some (.duplicateClaim .oamDma 0xFF45#16) ∧ s.pending = .word 0x14000000#30 :: [.press .a]) ∧
    decode 0x14000000#30 = .ok .reset ∧ decode 0x02FF0400#30 = .ok (.rdDiv true) ∧ ∀ w, Input.press .a ≠ .word w :=
  ⟨⟨rfl, rfl⟩, by decide +kernel, by decide +kernel, fun _ h => nomatch h⟩

theorem witness_BusWordsAreAccesses :
    (decode 0x02FF0400#30 = .ok (.rdDiv true) ∧ wordClass 0x02FF0400#30 = 0#4 ∧ wordRw 0x02FF0400#30 = false) ∧
    (decode 0x01FFFFFF#30 = .ok (.wr false 0xFFFF#16 0xFF#8) ∧ wordClass 0x01FFFFFF#30 = 0#4 ∧ wordRw 0x01FFFFFF#30 = true) := by
  decide +kernel

theorem witness_BusAccessResult_external :
    (∀ p ∈ [Place.wramFixed, .wramBank, .wramEcho, .hram, .svbk, .ifReg, .ieReg, .cartRom, .cartRam, .joyp, .serialRegs,
        .speedSwitch],
      Reached live p 0 true ∧ Reached live p (p.size - 1) true) ∧ live.cfg.highRam = .memory ∧
    (let s := withConfig fun c => { c with highRam := .opaqueHandler }
     Reached s .hram 0x7E true ∧ s.cfg.highRam = .opaqueHandler) := by
  simp only [Reached]
  decide +kernel

theorem witness_ResetAndRegistration :
    live.defaultMap ∧ (live.setPending [.registerAll]).fault = none ∧ (live.setPending [.registerAll]).pending = .registerAll :: [] :=
  ⟨live_map.1, rfl, rfl⟩

theorem witness_BusAccessResult :
    AccessBlocked (live.setBlocked .general true) 0xFDFF#16 true ∧ AccessBlocked (live.setBlocked .oam true) 0xFE9F#16 true ∧
    (¬ AccessBlocked live 0xFEA0#16 true ∧ ownerOf live 0xFEA0#16 = none) ∧
    (¬ AccessBlocked live 0xFF04#16 true ∧ ownerOf live 0xFF04#16 = some .timer ∧ live.cfg.placeAt .timer 0xFF04#16 = some .div) :=
  ⟨⟨rfl, .general, by decide +kernel, rfl⟩, ⟨rfl, .oam, by decide +kernel, rfl⟩, ⟨live_free _ _, by decide +kernel⟩,
    live_free _ _, by decide +kernel⟩

theorem witness_RegisteredPlacesAreReached :
    live.defaultMap ∧ live.cfg.present .vram = true ∧ placeHandler .vram ∈ live.bus.registered ∧ 0x1FFF < Place.vram.size ∧
    ¬ AccessBlocked live (placeAddr .vram 0x1FFF) true :=
  ⟨live_map.1, by decide, by decide, by decide, live_free _ _⟩

theorem clash_inv : BusInv clash where
  canonical := by unfold Bus.canonical; decide +kernel
  disjoint := by
    intro h hh k hk _ _ _
    have e : clash.bus.registered = [.ppu] := rfl
    rw [e, List.mem_singleton] at hh hk
    rw [hh, hk]

theorem witness_OwnerMapChanges :
    (BusInv State.reset ∧ State.reset.cfg.claims .timer 0xFF04#16 = true ∧ ownerOf State.reset 0xFF04#16 = none) ∧
    (BusInv clash ∧ clash.cfg.claims .oamDma 0xFF45#16 = true ∧ ownerOf clash 0xFF45#16 = some .ppu ∧
      ∀ b, clash.cfg.claims .oamDma b = true → (0xFF45#16).toNat ≤ b.toNat) ∧
    (BusInv live ∧ ownerOf live 0xFF04#16 = some .timer) := by
  refine ⟨⟨(Inv.powerOn _).bus, by decide +kernel⟩, ⟨clash_inv, by decide +kernel, by decide +kernel, ?_⟩, live_inv.bus, by decide +kernel⟩
  intro b hb
  have e : clash.cfg.claimedPlaces .oamDma = [.dma] := by decide +kernel
  have e' : clash.cfg.base .dma = 0xFF45#16 := by decide +kernel
  simp only [Config.claims, Config.placeAt, e, List.find?_isSome, List.mem_singleton, exists_eq_left, covers, e',
    Bool.and_eq_true, decide_eq_true_eq] at hb
  exact hb.1

theorem witness_DivAndTimaRegisters :
    (let s := withTimer fun t => { t with tac := 4#3, counter := 0x0200#16 }
     Reached s .div 0 true ∧ s.timer.tac.getLsbD 2 = true ∧ s.timer.counter.getLsbD s.timer.selBit.index = true) ∧
    (Reached live .div 0 true ∧ live.timer.tac.getLsbD 2 = false) ∧
    (∀ n ∈ [0, 1, 4, 5, 8], Reached (withTimer fun t => { t with reloadCtr := n }) .tima 0 true) ∧ live.cfg.timaReloadHold = 4 := by
  simp only [Reached]
  decide +kernel

theorem witness_TmaAndTacRegisters :
    (let s := (withConfig fun c => { c with tmaForwardInHold := true }).setTimer { live.timer with reloadCtr := 4 }
     Reached s .tma 0 true ∧ s.cfg.tmaForwardInHold = true ∧ s.timer.reloadCtr ≤ s.cfg.timaReloadHold) ∧
    (Reached live .tma 0 true ∧ live.cfg.tmaForwardInHold = false) ∧
    (let s := withTimer fun t => { t with tac := 5#3, selBit := .bit3, counter := 0x0028#16 }
     Reached s .tac 0 true ∧ s.timer.counter.getLsbD s.timer.selBit.index = true ∧ s.timer.counter.getLsbD 5 = true ∧
       s.timer.counter.getLsbD 7 = false) := by
  simp only [Reached]
  decide +kernel

theorem witness_TimerOverflowTimeline :
    (let s := withTimer fun t => { t with tac := 5#3, selBit := .bit3, counter := 0x000F#16, tima := 0xFF#8, tma := 0x23#8 }
     s.timer.tac.getLsbD 2 = true ∧ s.timer.tima = 0xFF#8 ∧ s.timer.reloadCtr = 0 ∧
       s.timer.counter.getLsbD s.timer.selBit.index = true ∧
       (s.timer.counter + 1#16).getLsbD s.timer.selBit.index = false) := by decide +kernel

theorem witness_TimaRate :
    (let s := withTimer fun t => { t with tac := 4#3, tima := 0xFE#8, counter := 0xFFFF#16 }
     s.timer.tac.getLsbD 2 = true ∧ s.timer.reloadCtr = 0 ∧ s.timer.tima ≠ 0xFF#8) := by decide +kernel

theorem witness_PlainPpuRegisters : ∀ p ∈ [Place.scy, .scx, .bgp, .obp0, .obp1, .wy, .wx], Reached live p 0 true := by
  simp only [Reached]
  decide +kernel

theorem witness_LcdcReadAndWrite :
    (Reached live .lcdc 0 true ∧ live.ppu.lcdc.getLsbD 7 = false ∧ (0x91#8).getLsbD 7 = true) ∧
    (Reached (lit .vblank 153 455 id) .lcdc 0 true ∧ (lit .vblank 153 455 id).ppu.lcdc.getLsbD 7 = true ∧ (0x11#8).getLsbD 7 = false) := by
  simp only [Reached]
  decide +kernel

theorem witness_StatLyLycReadAndWrite : ∀ p ∈ [Place.stat, .ly, .lyc], Reached live p 0 true := by
  simp only [Reached]
  decide +kernel

theorem witness_LycToggleRequestsTwice :
    (let s := withPpu fun p => { p with statEn := 8#4, ly := 5, lyc := 9#8 }
     Reached s .lyc 0 true ∧ s.ppu.statEn.getLsbD 3 = true ∧ ¬ (s.ppu.statEn.getLsbD 0 = true ∧ s.ppu.mode = .hblank) ∧
       ¬ (s.ppu.statEn.getLsbD 1 = true ∧ s.ppu.mode = .vblank) ∧ ¬ (s.ppu.statEn.getLsbD 2 = true ∧ s.ppu.mode = .oamScan) ∧
       s.ppu.statLine = false ∧ s.ppu.ly < 256 ∧ (9#8).toNat ≠ s.ppu.ly) := by
  simp only [Reached]
  decide +kernel

theorem witness_VramAndOamAccess :
    (Reached live .vram 0 true ∧ Reached live .vram (0x1FFF#13).toNat true ∧ Reached live .oam (0x9F#8).toNat true ∧
      live.cfg.ppuModeAccessLock = false) ∧
    (let s := (withConfig fun c => { c with ppuModeAccessLock := true }).setPpu (lit .pixelTransfer 143 80 id).ppu
     Reached s .vram 0 true ∧ Reached s .oam 0 true ∧ s.cfg.ppuModeAccessLock = true ∧ s.ppu.lcdc.getLsbD 7 = true ∧
       s.ppu.mode = .pixelTransfer) := by
  simp only [Reached]
  decide +kernel

theorem witness_CgbPpuRegisters : ∀ p ∈ [Place.vbk, .opri, .bcps, .ocps, .bcpd, .ocpd], Reached live p 0 true := by
  simp only [Reached]
  decide +kernel

theorem witness_CgbRegistersUnmappedInDmg :
    liveDmg.defaultMap ∧ liveDmg.cfg.hwMode = .dmg ∧
    Place.opri ∈ [Place.vbk, .hdma1, .hdma2, .hdma3, .hdma4, .hdma5, .bcps, .bcpd, .ocps, .ocpd, .opri] :=
  ⟨live_map.2.1, rfl, by decide⟩

theorem witness_DotWithLcdOff : live.ppu.lcdc.getLsbD 7 = false := by decide +kernel

theorem lit_hblank : PpuInv (lit .hblank 143 455 id).ppu := by constructor <;> decide +kernel
theorem lit_vblank : PpuInv (lit .vblank 153 454 id).ppu := by constructor <;> decide +kernel
theorem lit_scan : PpuInv (lit .oamScan 0 79 fun p => (p.writeOam 156 16#8).writeOam 157 8#8).ppu := by constructor <;> decide +kernel
theorem lit_transfer : PpuInv (lit .pixelTransfer 143 448 fun p =>
    { p with lx := 159, bgFifo := [⟨3#2, 0#3, false, 0⟩], spritesAt := [(0, [⟨0, 16#8, 8#8⟩])] }).ppu := by
  constructor <;> decide +kernel

theorem witness_DotTiming :
    (PpuInv (lit .hblank 143 455 id).ppu ∧ (lit .hblank 143 455 id).ppu.lcdc.getLsbD 7 = true) ∧
    (PpuInv (lit .vblank 153 454 id).ppu ∧ (lit .vblank 153 454 id).ppu.mode = .vblank) ∧
    (∃ s : State, PpuInv s.ppu ∧ s.ppu.lcdc.getLsbD 7 = true ∧ s.ppu.mode = .oamScan ∧ s.ppu.lineTicks = 79) ∧
    ∃ s : State, PpuInv s.ppu ∧ s.ppu.lcdc.getLsbD 7 = true ∧ s.ppu.mode = .pixelTransfer ∧ s.ppu.lx = 159 :=
  ⟨⟨lit_hblank, by decide +kernel⟩, ⟨lit_vblank, rfl⟩, ⟨_, lit_scan, by decide +kernel, rfl, rfl⟩,
    _, lit_transfer, by decide +kernel, rfl, rfl⟩

theorem witness_DotTiming_lineEnd :
    (∃ s : State, PpuInv s.ppu ∧ s.ppu.lcdc.getLsbD 7 = true ∧ s.ppu.mode = .vblank ∧ s.ppu.lineTicks = 455 ∧ s.ppu.ly = 153) ∧
    (∃ s : State, PpuInv s.ppu ∧ s.ppu.lcdc.getLsbD 7 = true ∧ s.ppu.mode = .hblank ∧ s.ppu.lineTicks = 455 ∧ s.ppu.ly = 142) ∧
    ∃ s : State, PpuInv s.ppu ∧ s.ppu.lcdc.getLsbD 7 = true ∧ s.ppu.mode = .pixelTransfer ∧ s.ppu.lineTicks = 448 ∧
      s.ppu.lx = 159 ∧ s.ppu.windowDrawn = true := by
  refine ⟨⟨lit .vblank 153 455 id, ?_, by decide +kernel⟩, ⟨lit .hblank 142 455 id, ?_, by decide +kernel⟩,
    lit .pixelTransfer 142 448 fun p => { p with lx := 159, windowDrawn := true, bgFifo := [⟨3#2, 0#3, false, 0⟩] }, ?_,
    by decide +kernel⟩ <;> constructor <;> decide +kernel

theorem witness_OneVBlankInAFrame : PpuInv (lit .vblank 153 454 id).ppu ∧ (lit .vblank 153 454 id).ppu.lcdc.getLsbD 7 = true :=
  ⟨lit_vblank, by decide +kernel⟩

theorem witness_PixelOutput :
    ∃ (s : State) (bg : Pixel) (rest : List Pixel), PpuInv s.ppu ∧ s.ppu.lcdc.getLsbD 7 = true ∧ s.ppu.mode = .pixelTransfer ∧
      s.ppu.spriteState = .idle ∧ queueAt s.ppu.spritesAt s.ppu.lx = [] ∧ s.ppu.lcdc.getLsbD 5 = false ∧
      s.ppu.bgFifo = bg :: rest ∧ s.ppu.discard = 0 :=
  ⟨_, _, _, lit_transfer, by decide +kernel, rfl, rfl, by decide +kernel, by decide +kernel, rfl, rfl⟩

theorem witness_PixelOutput_discards :
    (let s := lit .pixelTransfer 0 88 fun p => { p with lcdc := 0xB3#8, wx := 7#8, wy := 1#8, discard := 7, bgFifo := [⟨3#2, 0#3, false, 0⟩] }
     s.ppu.lcdc.getLsbD 5 = true ∧ s.ppu.ly < s.ppu.wy.toNat ∧ 0 < s.ppu.discard) := by decide +kernel

theorem lit_window : PpuInv (lit .pixelTransfer 143 455 fun p =>
    { p with lcdc := 0xB1#8, lx := 0, wx := 7#8, wy := 143#8, fetchState := .push }).ppu := by constructor <;> decide +kernel

theorem witness_PixelOutput_window :
    ∃ s : State, PpuInv s.ppu ∧ s.ppu.lcdc.getLsbD 7 = true ∧ s.ppu.mode = .pixelTransfer ∧ s.ppu.spriteState = .idle ∧
      s.ppu.lcdc.getLsbD 1 = false ∧ s.ppu.inWindow = false ∧ s.ppu.lcdc.getLsbD 5 = true ∧ s.ppu.wy.toNat ≤ s.ppu.ly ∧
      s.ppu.wx.toNat ≤ s.ppu.lx + 7 :=
  ⟨_, lit_window, by decide +kernel, rfl, by decide +kernel, by decide +kernel, by decide +kernel, by decide +kernel,
    by decide +kernel, by decide +kernel⟩

theorem witness_PixelOutput_fetcher :
    ∀ f ∈ [FetchState.fetchTileSleep, .fetchTile, .fetchLowSleep, .fetchLow, .fetchHighSleep, .fetchHigh, .pushSleep, .push],
      (let s := lit .pixelTransfer 0 80 fun p => { p with lcdc := 0x91#8, fetchState := f }
       s.ppu.fetchState = f ∧ s.ppu.bgFifo = [] ∧ s.ppu.lcdc.getLsbD 5 = false) := by decide +kernel

theorem witness_MixPriority : live.cfg.hwMode = .cgb ∧ liveDmg.cfg.hwMode = .dmg := ⟨rfl, rfl⟩

theorem witness_OamScanSelection :
    ∃ s : State, PpuInv s.ppu ∧ s.ppu.lcdc.getLsbD 7 = true ∧ s.ppu.mode = .oamScan ∧ s.ppu.lineTicks < 80 ∧
      s.ppu.lineTicks % 2 = 1 ∧ s.bus.blockedOam = false ∧ (s.ppuEnv.oam s.ppu 156).toNat ≤ s.ppu.ly + 16 ∧
      s.ppu.ly + 16 < (s.ppuEnv.oam s.ppu 156).toNat + 8 :=
  ⟨_, lit_scan, by decide +kernel, rfl, by decide, by decide, rfl, by decide +kernel, by decide +kernel⟩

theorem witness_SpriteFetchTakesSixDots :
    ∃ (s : State) (r : Sprite) (q : List Sprite), PpuInv s.ppu ∧ s.ppu.lcdc.getLsbD 7 = true ∧ s.ppu.lcdc.getLsbD 1 = true ∧
      s.ppu.mode = .pixelTransfer ∧ s.ppu.spriteState = .idle ∧ queueAt s.ppu.spritesAt s.ppu.lx = r :: q ∧ s.ppu.lineTicks < 449 := by
  refine ⟨lit .pixelTransfer 143 448 fun p => { p with spritesAt := [(0, [⟨0, 16#8, 8#8⟩])] }, ⟨0, 16#8, 8#8⟩, [], ?_, ?_⟩
  · constructor <;> decide +kernel
  · decide +kernel

theorem witness_DmaReadAndWrite : Reached live .dma 0 true := (live_reached.1 .dma (by decide)).1

theorem witness_TickDmaSchedule :
    live.dma.active = false ∧
    ∀ n ∈ [0, 1, 2, 3, 4, 636, 637, 639, 640, 641, 642, 643],
      (live.setDma { live.dma with active := true, cycle := n, srcSeg := some .general }).dma.active = true ∧
      (live.setDma { live.dma with active := true, cycle := n, srcSeg := some .general }).dma.srcSeg ≠ some .oam := by decide +kernel

theorem witness_OamDmaCopiesThePage : live.defaultMap ∧ Reached live .dma 0 true ∧ HandlerId.ppu ∈ live.bus.registered :=
  ⟨live_map.1, witness_DmaReadAndWrite, by decide⟩

/-- A transfer under way, at its last read. -/
def copying : State := (live.setDma { live.dma with active := true, cycle := 637, readIdx := 159, writeIdx := 159, srcSeg := some .general }).setBus
  { live.bus with blockedOam := true, blockedGeneral := true }

theorem copying_inv : Inv copying := (live_inv.setDma (by constructor <;> decide +kernel)).setBus rfl

theorem witness_DmaActiveBlocksOam :
    ∃ t, Inv copying ∧ Instr.tickDma ≠ .block .oam false ∧ exec .tickDma copying = .next t ∧
      copying.dma.active = true ∧ copying.bus.blockedOam = true :=
  ⟨_, copying_inv, by decide, rfl, rfl, rfl⟩

theorem witness_HdmaRegisters :
    (∀ p ∈ [Place.hdma1, .hdma2, .hdma3, .hdma4, .hdma5], Reached live p 0 true) ∧
    (let s := live.setHdma { live.hdma with state := .waitHBlank, mode := .hblank, remaining := 2048 }
     Reached s .hdma5 0 true ∧ s.hdma.state ≠ .idle ∧ s.hdma.state ≠ .terminated ∧ s.hdma.mode = .hblank) ∧
    (0x7F#8).getLsbD 7 = false ∧ (0x80#8).getLsbD 7 = true := by
  simp only [Reached]
  decide +kernel

/-- An HBlank transfer of its last 16 bytes, at the end of VRAM, in HBlank. -/
def chunk : State := live.setHdma { live.hdma with
  state := .waitHBlank, mode := .hblank, src := 0xFDF0#16, dst := 0x9FF8#16, remaining := 16 }

theorem chunk_inv : Inv chunk := live_inv.setHdma (by constructor <;> decide +kernel)

theorem witness_HBlankChunkMovesSixteenBytes :
    chunk.defaultMap ∧ Inv chunk ∧ HandlerId.ppu ∈ chunk.bus.registered ∧ chunk.cfg.hwMode = .cgb ∧ chunk.hdma.state = .waitHBlank ∧
    chunk.hdma.mode = .hblank ∧ chunk.ppu.mode = .hblank ∧ chunk.hdma.remaining % 16 = 0 ∧
    (0xA000 ≤ chunk.hdma.src.toNat ∧ chunk.hdma.src.toNat + 15 < 0xFE00) :=
  ⟨live_map.1, chunk_inv, by decide +kernel⟩

theorem witness_GeneralPurposeRunsOut :
    ∃ s : State, s.defaultMap ∧ Inv s ∧ s.hdma.state = .read ∧ s.hdma.mode = .gp ∧ s.hdma.remaining = 2048 :=
  ⟨live.setHdma { live.hdma with state := .read, src := 0xC000#16, dst := 0x8000#16, remaining := 2048 }, ⟨rfl, rfl⟩,
    live_inv.setHdma (by constructor <;> decide +kernel), rfl, rfl, rfl⟩

/-- The registers of the APU are reached, whether its power is off or on. -/
theorem apu_reached : ∀ p ∈ Place.inTable, Reached live p 0 true ∧ Reached (withApu id) p 0 true := by
  simp only [Reached]
  decide +kernel

theorem witness_ApuRegisterReads : Reached live .nr10 0 true ∧ Reached live .nr52 0 true :=
  ⟨(apu_reached .nr10 (by decide)).1, (apu_reached .nr52 (by decide)).1⟩

theorem witness_ApuWritesIgnoredWithPowerOff : live.apu.power = false ∧ Reached live .nr51 0 true :=
  ⟨rfl, (apu_reached .nr51 (by decide)).1⟩

theorem witness_ApuPlainWrites : (withApu id).apu.power = true ∧ Reached (withApu id) .nr10 0 true :=
  ⟨rfl, (apu_reached .nr10 (by decide)).2⟩

theorem witness_ChannelRegisterWrites :
    (withApu id).apu.power = true ∧ Reached (withApu id) .nr11 0 true ∧ Reached (withApu id) .nr30 0 true ∧
    Reached (withApu id) .nr44 0 true ∧ (0x7F#8).getLsbD 7 = false :=
  ⟨rfl, (apu_reached .nr11 (by decide)).2, (apu_reached .nr30 (by decide)).2, (apu_reached .nr44 (by decide)).2, by decide⟩

theorem witness_Triggers :
    (withApu id).apu.power = true ∧ (0x80#8).getLsbD 7 = true ∧ (withApu id).cfg.gen = .standard ∧
    Reached (withApu id) .nr14 0 true ∧ Reached (withApu id) .nr24 0 true ∧ Reached (withApu id) .nr34 0 true ∧
    Reached (withApu id) .nr44 0 true :=
  ⟨rfl, by decide, rfl, (apu_reached .nr14 (by decide)).2, (apu_reached .nr24 (by decide)).2, (apu_reached .nr34 (by decide)).2,
    (apu_reached .nr44 (by decide)).2⟩

theorem witness_Triggers_supplied :
    (let s := (withApu id).setApu { (withApu id).apu with power := true }
     let t : State := { s with cfg := { s.cfg with gen := .supplied } }
     t.apu.power = true ∧ t.cfg.gen ≠ .standard ∧ Reached t .nr14 0 true ∧ Reached t .nr44 0 true) := by
  simp only [Reached]
  decide +kernel

theorem witness_PowerSwitch :
    (Reached live .nr52 0 true ∧ live.apu.power = false ∧ (0x80#8).getLsbD 7 = true) ∧
    (Reached (withApu id) .nr52 0 true ∧ (withApu id).apu.power = true ∧ (0x7F#8).getLsbD 7 = false) :=
  ⟨⟨(apu_reached .nr52 (by decide)).1, rfl, by decide⟩, (apu_reached .nr52 (by decide)).2, rfl, by decide⟩

theorem witness_WaveReadAndWrite : Reached live .wave (15#4).toNat true := live_reached.2.2.2

theorem witness_FrameSequencer :
    (let s := withApu fun a => { a with fsCounter := 8191, fsStep := 7 }
     s.apu.fsStep < 8 ∧ (s.apu.fsCounter + 1) % 8192 = 0) ∧ live.apu.fsStep < 8 := by decide +kernel

theorem witness_SweepClocked :
    (let s := withApu fun a => { a with fsCounter := 8191, fsStep := 6, nr10 := 0x11#8, sweep := ⟨0x400#11, 1, true⟩ }
     (s.apu.fsCounter + 1) % 8192 = 0 ∧ s.apu.fsStep ∈ [2, 6] ∧ s.apu.sweep.timer ≤ 1 ∧
       s.apu.sweep.on = true ∧ s.apu.nr10.toNat / 16 % 8 ≠ 0 ∧ s.cfg.sweepSecondCheck = false ∧
       0x400 + 0x400 / 2 ≤ 2047 ∧ 2047 < 0x600 + 0x600 / 2) ∧
    (withConfig fun c => { c with sweepSecondCheck := true }).cfg.sweepSecondCheck = true := by decide +kernel

theorem witness_DefaultGenerators :
    live.cfg.gen = .standard ∧ (withApu fun a => { a with fsCounter := 8191 }).cfg.gen = .standard ∧
    (withConfig fun c => { c with gen := .supplied }).cfg.gen = .supplied := ⟨rfl, rfl, rfl⟩

theorem witness_SamplesInUnitRange :
    ∃ (s t : State) (l r : Rat), s.cfg.dac = Config.default.dac ∧ s.cfg.vol = Config.default.vol ∧ exec .tickApu s = .next t ∧
      t.trace = s.trace ++ [.sample l r] :=
  ⟨withApu fun a => { a with sampleCtr := 1 }, _, 0, 0, rfl, rfl, rfl, by decide +kernel⟩

theorem witness_IotickExpands :
    (live.cfg.tickInterleave = .perCycle ∧ live.halfPhase = false ∧ (live.setHalfPhase true).halfPhase = true ∧ 0xFFFF#16 ≠ 0#16) ∧
    (withConfig fun c => { c with tickInterleave := .perGroup }).cfg.tickInterleave = .perGroup := by decide +kernel

theorem witness_TickSerialEffect : live.cfg.serialAttached = false := by decide +kernel

theorem witness_InterruptRequestsOnlySet :
    ∃ t, live.defaultMap ∧ Inv live ∧ exec .tickHdma live = .next t ∧ ∀ hb v, Instr.tickHdma ≠ .wr hb 0xFF0F#16 v :=
  ⟨_, live_map.1, live_inv, rfl, fun _ _ h => nomatch h⟩

theorem witness_InterruptDispatch :
    ∀ n < 5, ∀ r ∈ [CpuRun.running, .halted, .stopped], ∀ x ∈ [Input.cpuService, .cpuTick [.halt] 4#16 4#16],
      (let s := (live.setCpu { live.cpu with
         ime := true, ie := 0xFF#8, ifr := 1#8 <<< n, sp := 0xFFFE#16, run := r, switchArmed := true }).setPending [x]
      s.fault = none ∧ s.pending = x :: [] ∧ s.cpu.ime = true ∧ s.cpu.run ≠ .servicingInterrupt ∧ s.hdma.stall = 0 ∧ s.cpu.ie.getLsbD n = true ∧
      s.cpu.ifr.getLsbD n = true ∧ ∀ m < n, ¬ (s.cpu.ie.getLsbD m = true ∧ s.cpu.ifr.getLsbD m = true)) := by decide +kernel

theorem witness_ExternalActs :
    (∀ x ∈ [Input.press .select, .release .up, .cpuAct .halt, .cpuAct .fetch, .cpuAct .stop, .cpuAct (.read 0xFFFF#16),
        .cpuAct (.write 0#16 0xFF#8), .cpuAct (.set 0xFFFF#16 1#16 2#16 3#16 4#16 5#16 true), .cpuService, .takeStall],
      (live.setPending [x]).fault = none ∧ (live.setPending [x]).pending = x :: []) ∧
    (live.hdma.stall = 0 ∧ live.cpu.run ≠ .halted ∧ live.cpu.run ≠ .stopped ∧ live.cfg.hwMode = .cgb ∧ liveDmg.cfg.hwMode = .dmg) ∧
    (live.ext.buttons.held .select = false ∧ (live.ext.buttons.put .select true).held .select = true) ∧
    (∀ n < 5, ¬ (live.cpu.ie.getLsbD n = true ∧ live.cpu.ifr.getLsbD n = true)) ∧
    (∀ r ∈ [CpuRun.halted, .stopped],
      (let s := (live.setCpu { live.cpu with ie := 0x10#8, ifr := 0x10#8, run := r }).setPending [.cpuService]
       s.fault = none ∧ s.hdma.stall = 0 ∧ s.cpu.ie.getLsbD 4 = true ∧ s.cpu.ifr.getLsbD 4 = true ∧ s.cpu.ime = false ∧ s.cpu.run = r)) ∧
    2 * (live.setHdma { live.hdma with stall := 32767 }).hdma.stall < 65536 := by decide +kernel

theorem witness_ExternalActs_stall :
    ∀ x ∈ [Input.cpuService, .cpuAct .fetch, .cpuTick [.fetch] 4#16 4#16],
      (let s := (live.setHdma { live.hdma with stall := 2 }).setPending [x]
       s.fault = none ∧ s.pending = x :: [] ∧ s.hdma.stall = 2) := by decide +kernel

theorem witness_CpuTick_ends :
    (live.setPending [.cpuTick [.write 0xFF55#16 0#8, .fetch] 4#16 4#16]).defaultMap ∧
      Inv (live.setPending [.cpuTick [.write 0xFF55#16 0#8, .fetch] 4#16 4#16]) ∧ live.hdma.stall = 0 ∧ live.hdma.state = .idle :=
  ⟨live_map.1, live_inv.setPending _, by decide, by decide⟩

theorem witness_CpuTick :
    ∀ r ∈ [CpuRun.running, .halted, .stopped], ∀ i ∈ [true, false], ∀ f ∈ [0x00#8, 0x10#8],
      (let s := (live.setCpu { live.cpu with ie := 0x1F#8, ifr := f, ime := i, run := r }).setPending [.cpuTick [.fetch, .halt] 8#16 4#16]
       s.fault = none ∧ s.hdma.stall = 0 ∧ s.pending = .cpuTick [.fetch, .halt] 8#16 4#16 :: [] ∧ s.cpu.run = r ∧ s.cpu.ime = i ∧
         (f = 0x10#8 → s.cpu.ie.getLsbD 4 = true ∧ s.cpu.ifr.getLsbD 4 = true)) := by decide +kernel

theorem witness_InvStep :
    ∃ t, Inv (copying.setPending [.word 0x1C000002#30]) ∧ step (copying.setPending [.word 0x1C000002#30]) = .next t :=
  ⟨tickDma copying, copying_inv.setPending _, by
    have h : decode 0x1C000002#30 = .ok .tickDma := by decide +kernel
    show acceptWord 0x1C000002#30 (copying.setPending []) = _
    simp only [acceptWord, h]
    rfl⟩

end Sys2Proof.Tests
end

namespace Sys2Proof.Machine

/-! What an operation and a step can do, each said once. -/

/-- What an operation word can make of a state: an access to the bus, ticks, or an operation of the dispatcher. -/
inductive ExecResult (s : State) : State → Prop
  | read (a : Addr) (hb : Bool) : ExecResult s (issueRead a hb s)
  | write (a : Addr) (v : Byte) (hb : Bool) : ExecResult s (busWrite a v hb s)
  | ioTick (n : Nat) (ds : Bool) : ExecResult s (ioTick n ds s)
  | block (g : Segment) (v : Bool) : ExecResult s (s.setBlocked g v)
  | register (hid : HandlerId) : ExecResult s (registerHandler hid s)
  | unregister (hid : HandlerId) : ExecResult s (unregisterHandler hid s)
  | reset : ExecResult s (resetBlock s)
  | tickTimer : ExecResult s (tickTimer s)
  | tickSerial : ExecResult s (tickSerial s)
  | tickDma : ExecResult s (tickDma s)
  | tickPpu : ExecResult s (tickPpu s)
  | tickApu : ExecResult s (tickApu s)
  | tickHdma : ExecResult s (tickHdma s)

/-- Every operation answers a next state, and one of these. The rows of the registers and memories are reads and writes of
the bus (R127). -/
theorem exec_result (i : Instr) (s : State) : ∃ t, exec i s = .next t ∧ ExecResult s t := by
  cases i
  case iotick n => exact ⟨_, rfl, .ioTick n.toNat false⟩
  case iotick2 n => exact ⟨_, rfl, .ioTick n.toNat true⟩
  case block g v => exact ⟨_, rfl, .block g v⟩
  case register hid => exact ⟨_, rfl, .register hid⟩
  case unregister hid => exact ⟨_, rfl, .unregister hid⟩
  case reset => exact ⟨_, rfl, .reset⟩
  case tickTimer => exact ⟨_, rfl, .tickTimer⟩
  case tickSerial => exact ⟨_, rfl, .tickSerial⟩
  case tickDma => exact ⟨_, rfl, .tickDma⟩
  case tickPpu => exact ⟨_, rfl, .tickPpu⟩
  case tickApu => exact ⟨_, rfl, .tickApu⟩
  case tickHdma => exact ⟨_, rfl, .tickHdma⟩
  case rd | rdVram | rdOam | rdWave | rdDiv | rdTima | rdTma | rdTac | rdNr10 | rdNr11 | rdNr12 | rdNr13 | rdNr14 |
      rdNr21 | rdNr22 | rdNr23 | rdNr24 | rdNr30 | rdNr31 | rdNr32 | rdNr33 | rdNr34 | rdNr41 | rdNr42 | rdNr43 | rdNr44 |
      rdNr50 | rdNr51 | rdNr52 | rdLcdc | rdStat | rdScy | rdScx | rdLy | rdLyc | rdDma | rdBgp | rdObp0 | rdObp1 | rdWy |
      rdWx | rdVbk | rdHdma1 | rdHdma2 | rdHdma3 | rdHdma4 | rdHdma5 | rdBcps | rdBcpd | rdOcps | rdOcpd | rdOpri =>
    exact ⟨_, rfl, .read _ _⟩
  all_goals exact ⟨_, rfl, .write _ _ _⟩

/-- An operation is accepted outside the fault state, and `RESET` in it too (R460). -/
theorem acceptInstr_next {i : Instr} {s t : State} (h : acceptInstr i s = .next t) :
    (s.fault = none ∨ i = .reset) ∧ exec i s = .next t := by
  simp only [acceptInstr] at h
  split at h
  · next hf => exact ⟨.inl hf, h⟩
  · split at h
    · next hi => exact ⟨.inr hi, h⟩
    · cases h

/-- Everything a step can do: nothing with no input waiting, the operation of a word, or the act of an external agent. -/
theorem step_next_cases {s t : State} (h : step s = .next t) :
    (s.pending = [] ∧ t = s) ∨
    (∃ w i rest, s.pending = .word w :: rest ∧ decode w = .ok i ∧ (s.fault = none ∨ i = .reset) ∧
      exec i (s.setPending rest) = .next t) ∨
    (∃ x rest, s.pending = x :: rest ∧ (∀ w, x ≠ .word w) ∧ s.fault = none ∧ t = externalEffect x (s.setPending rest)) := by
  cases hp : s.pending with
  | nil =>
    simp only [step, hp, Host.Outcome.next.injEq] at h
    exact .inl ⟨rfl, h.symm⟩
  | cons x rest =>
    right
    simp only [step, hp] at h
    cases x with
    | word w =>
      left
      simp only [acceptInput, acceptWord] at h
      split at h
      · cases h
      · next i hd =>
        obtain ⟨hf, he⟩ := acceptInstr_next h
        exact ⟨w, i, rest, rfl, hd, hf, he⟩
    | takeStall | registerAll | press k | release k | cpuService | cpuAct act | cpuTick acts cycles idle =>
      right
      simp only [acceptInput] at h
      split at h
      · next hf => exact ⟨_, rest, rfl, fun _ => Input.noConfusion, hf, (Host.Outcome.next.inj h).symm⟩
      · cases h

/-! The invariant along a step. -/

theorem ExecResult.inv {s t : State} (ht : ExecResult s t) (h : Inv s) : Inv t := by
  cases ht with
  | read a hb => exact h.issueRead a hb
  | write a v hb => exact h.busWrite a v hb
  | ioTick n ds => exact h.ioTick n ds
  | block g v => exact h.setBlocked g v
  | register hid => exact h.registerHandler hid
  | unregister hid => exact h.unregisterHandler hid
  | reset => exact h.resetBlock
  | tickTimer => exact h.tickTimer
  | tickSerial => exact h.tickSerial
  | tickDma => exact h.tickDma
  | tickPpu => exact h.tickPpu
  | tickApu => exact h.tickApu
  | tickHdma => exact h.tickHdma

theorem Inv.exec {i : Instr} {s t : State} (h : Inv s) (he : exec i s = .next t) : Inv t := by
  obtain ⟨u, hu, hr⟩ := exec_result i s
  obtain rfl : u = t := Host.Outcome.next.inj (hu.symm.trans he)
  exact hr.inv h

theorem Inv.externalEffect {s : State} (x : Input) (h : Inv s) : Inv (externalEffect x s) := by
  cases x with
  | word w => exact h
  | takeStall => exact h.takeStall
  | registerAll => exact h.setPending _
  | press k => exact h.pressButton k
  | release k => exact h.moveButton k false
  | cpuService => exact h.cpuStep fun _ ht => ht.cpuService
  | cpuAct act => exact h.takeStall.cpuAct act
  | cpuTick acts cycles idle => exact h.cpuStep fun _ ht => ht.cpuTick acts cycles.toNat idle.toNat

/-- Settles O59: an idle step changes nothing, and the inputs to come are no part of the invariant, which every operation
and every external act keeps. -/
theorem invStep : Obligations.InvStep := by
  unfold Obligations.InvStep
  intro s t h hs
  obtain ⟨-, rfl⟩ | ⟨w, i, rest, -, -, -, he⟩ | ⟨x, rest, -, -, -, rfl⟩ := step_next_cases hs
  · exact h
  · exact (h.setPending rest).exec he
  · exact (h.setPending rest).externalEffect x

end Sys2Proof.Machine

namespace Sys2Proof.Machine

/-! The external agents: their inputs as steps, and what each act is (R73, R308, R445, R466, R471 to R476). -/

/-- Outside the fault state an external agent's act has its effect (R98). -/
theorem step_external {s : State} {x : Input} {rest : List Input} (hf : s.fault = none) (hp : s.pending = x :: rest)
    (hx : ∀ w, x ≠ .word w) : step s = .next (externalEffect x (s.setPending rest)) := by
  cases x with
  | word w => exact absurd rfl (hx w)
  | takeStall | registerAll | press k | release k | cpuService | cpuAct act | cpuTick acts cycles idle =>
    simp [step, hp, acceptInput, hf]

/-- With no stall owed an act of the CPU waits for nothing (R445). -/
theorem step_cpuAct_of_zero {s : State} {act : CpuAct} {rest : List Input} (hf : s.fault = none)
    (h0 : s.hdma.stall = 0) (hp : s.pending = .cpuAct act :: rest) :
    step s = .next (cpuAct act (s.setPending rest)) := by
  rw [cpuAct_setPending, ← step_cpuAct act rest hf h0, ← hp, State.setPending_same]

/-! The joypad's buttons (R466). -/

/-- A press moves the buttons and the joypad's own state, and beside them the CPU's registers at most. -/
theorem pressButton_eq (k : Button) (s : State) :
    pressButton k s = (moveButton k true s).setCpu (pressButton k s).cpu := by
  simp only [pressButton]
  split <;> rfl

theorem pressButton_ext (k : Button) (s : State) : (pressButton k s).ext = (moveButton k true s).ext := by
  rw [pressButton_eq, State.setCpu_ext]

/-- A button that was up and newly asserts a row requests interrupt 4. -/
theorem pressButton_cpu_of_asserts {k : Button} {s : State} (hu : s.ext.buttons.held k = false)
    (ha : Config.joypadAsserts s.ext.joypToken k = true) :
    (pressButton k s).cpu = { s.cpu with ifr := s.cpu.ifr ||| 0x10#8 } := by
  simp only [pressButton, hu, ha]
  rfl

/-- A button that was down, or asserts no row, requests nothing. -/
theorem pressButton_cpu_of_silent {k : Button} {s : State}
    (h : s.ext.buttons.held k = true ∨ Config.joypadAsserts s.ext.joypToken k = false) :
    (pressButton k s).cpu = s.cpu := by
  obtain h | h := h <;> simp [pressButton, h, moveButton]

/-! Bits of a byte and of a register pair. -/

/-- The low five bits are clear exactly if none of them is set. -/
theorem and_1F_eq_zero_iff (b : Byte) : b &&& 0x1F#8 = 0#8 ↔ ∀ n, n < 5 → ¬ b.getLsbD n = true := by
  constructor
  · intro h n hn
    have hb := congrArg (·.getLsbD n) h
    have hm : (0x1F#8).getLsbD n = true := by
      interval_cases n <;> rfl
    simpa [hm] using hb
  · intro h
    apply BitVec.eq_of_getLsbD_eq
    intro i hi
    by_cases h5 : i < 5
    · simp [h i h5]
    · have hm : (0x1F#8).getLsbD i = false := by
        interval_cases i <;> rfl
      simp [hm]

/-- Clearing the low nibble rounds down to a multiple of 16. -/
theorem and_FFF0_toNat (x : BitVec 16) : (x &&& 0xFFF0#16).toNat = x.toNat / 16 * 16 := by
  have h : x &&& 0xFFF0#16 = x >>> 4 <<< 4 := by
    apply BitVec.eq_of_getLsbD_eq
    intro i hi
    interval_cases i <;> simp
  have hx := x.isLt
  rw [h, BitVec.toNat_shiftLeft, BitVec.toNat_ushiftRight, Nat.shiftLeft_eq, Nat.shiftRight_eq_div_pow]
  omega

/-- An interrupt is wanted exactly if one of the five is both pending and enabled (R471). -/
theorem Cpu.pendingEnabled_eq_zero_iff (c : Cpu) :
    c.pendingEnabled = 0#8 ↔ ∀ n, n < 5 → ¬ (c.ie.getLsbD n = true ∧ c.ifr.getLsbD n = true) := by
  simp [Cpu.pendingEnabled, and_1F_eq_zero_iff]

theorem Cpu.idles_iff (c : Cpu) : c.idles = true ↔ c.run = .halted ∨ c.run = .stopped := by
  simp only [Cpu.idles]
  split <;> simp_all

/-! The CPU's acts. -/

/-- The halt bug strikes where the master enable is clear and an interrupt is pending (R475). -/
theorem cpuHalt_haltBug_iff (s : State) : (cpuHalt s).cpu.haltBug = true ↔
    s.cpu.haltBug = true ∨ (s.cpu.ime = false ∧ ∃ n, n < 5 ∧ s.cpu.ifr.getLsbD n = true) := by
  have h := not_congr (and_1F_eq_zero_iff s.cpu.ifr)
  push Not at h
  simp [cpuHalt, h]

/-- STOP arms the speed switch in CGB mode, where one is requested (R476). -/
theorem cpuStop_switchArmed (s : State) :
    (s.cfg.hwMode = .cgb → (cpuStop s).cpu.switchArmed = Config.speedSwitchRequested s.cpu.speedToken) ∧
    (s.cfg.hwMode = .dmg → (cpuStop s).cpu.switchArmed = false) := by
  constructor <;> intro h <;> simp [cpuStop, h]

/-! The ticks and the fault state. -/

/-- What every device's tick and the half phase keep, `IOTICK` keeps, in whatever order it calls them (R440, R441). -/
theorem ioTick_keeps {P : State → Prop} (hTimer : ∀ s, P s → P (tickTimer s))
    (hSerial : ∀ s, P s → P (tickSerial s)) (hDma : ∀ s, P s → P (tickDma s)) (hPpu : ∀ s, P s → P (tickPpu s))
    (hApu : ∀ s, P s → P (tickApu s)) (hHdma : ∀ s, P s → P (tickHdma s)) (hHalf : ∀ b s, P s → P (s.setHalfPhase b))
    (n : Nat) (ds : Bool) {s : State} (h : P s) : P (ioTick n ds s) := by
  have hFast : ∀ s, P s → P (fastGroup s) := fun s h => hDma _ (hSerial _ (hTimer s h))
  have hSlow : ∀ s, P s → P (slowGroup s) := fun s h => hHdma _ (hApu _ (hPpu s h))
  simp only [ioTick]
  split
  · refine repeatN_keeps (fun s h => ?_) n h
    simp only [cycleTick]
    split
    · split
      · exact hSlow _ (hHalf _ _ (hFast s h))
      · exact hHalf _ _ (hFast s h)
    · exact hSlow _ (hHalf _ _ (hFast s h))
  · exact repeatN_keeps hHdma _ (repeatN_keeps hApu _ (repeatN_keeps hPpu _
      (hHalf _ _ (repeatN_keeps hDma n (repeatN_keeps hSerial n (repeatN_keeps hTimer n h))))))

/-- Ticks take no input and raise no fault. -/
theorem ioTick_frame (n : Nat) (ds : Bool) (s : State) :
    (ioTick n ds s).fault = s.fault ∧ (ioTick n ds s).pending = s.pending := by
  refine ioTick_keeps (P := fun t => t.fault = s.fault ∧ t.pending = s.pending) ?_ ?_ ?_ ?_ ?_ ?_ ?_ n ds ⟨rfl, rfl⟩
  · intro t h; simpa [tickTimer_frame] using h
  · intro t h; simpa [tickSerial_frame] using h
  · intro t h; simpa [tickDma_frame] using h
  · intro t h; simpa [tickPpu_frame] using h
  · intro t h; simpa [tickApu_frame] using h
  · intro t h; simpa [tickHdma_frame] using h
  · intro b t h; exact h

theorem takeStall_frame (s : State) : (takeStall s).fault = s.fault ∧ (takeStall s).pending = s.pending := by
  simp only [takeStall]
  split <;> exact ioTick_frame ..

/-- The stall's ticks are an `IOTICK` of its count in the CPU's speed mode (R308, R445). -/
theorem exec_stall (s : State) (h : 2 * s.hdma.stall < 65536) :
    exec (if s.cpu.doubleSpeed = true then .iotick2 (BitVec.ofNat 16 (2 * s.hdma.stall))
      else .iotick (BitVec.ofNat 16 s.hdma.stall)) (s.setHdma { s.hdma with stall := 0 }) = .next (takeStall s) := by
  cases hd : s.cpu.doubleSpeed with
  | true =>
    have h2 : (BitVec.ofNat 16 (2 * s.hdma.stall)).toNat = 2 * s.hdma.stall := by rw [BitVec.toNat_ofNat]; omega
    simp [exec, execIotick2, takeStall, hd, h2]
  | false =>
    have h1 : (BitVec.ofNat 16 s.hdma.stall).toNat = s.hdma.stall := by rw [BitVec.toNat_ofNat]; omega
    simp [exec, execIotick, takeStall, hd, h1]

/-- Every input of the CPU runs off the stall that is owed before it does anything (R445). -/
theorem externalEffect_takeStall {s : State} {x : Input}
    (hx : x = .cpuService ∨ (∃ act, x = .cpuAct act) ∨ ∃ acts cycles idle, x = .cpuTick acts cycles idle)
    (h0 : (takeStall s).hdma.stall = 0) : externalEffect x (takeStall s) = externalEffect x s := by
  have h := takeStall_of_zero h0
  obtain rfl | ⟨act, rfl⟩ | ⟨acts, cycles, idle, rfl⟩ := hx
  · simp only [externalEffect, cpuStep, h]
  · simp only [externalEffect, h]
  · simp only [externalEffect, cpuStep, h]

/-! A step for each act. -/

section

variable {s : State} {rest : List Input}

theorem step_press {k : Button} (hf : s.fault = none) (hp : s.pending = .press k :: rest) :
    ∃ t, step s = .next t ∧
      t = ((s.setPending rest).setExt { s.ext with buttons := t.ext.buttons, joypToken := t.ext.joypToken }).setCpu t.cpu ∧
      (∀ m, t.ext.buttons.held m = if m = k then true else s.ext.buttons.held m) ∧
      (s.ext.buttons.held k = false ∧ Config.joypadAsserts s.ext.joypToken k = true →
        t.cpu = { s.cpu with ifr := s.cpu.ifr ||| 0x10#8 }) ∧
      (s.ext.buttons.held k = true ∨ Config.joypadAsserts s.ext.joypToken k = false → t.cpu = s.cpu) := by
  refine ⟨pressButton k (s.setPending rest), step_external hf hp nofun, ?_, fun m => ?_,
    fun h => pressButton_cpu_of_asserts (s := s.setPending rest) h.1 h.2,
    pressButton_cpu_of_silent (s := s.setPending rest)⟩
  · rw [pressButton_ext]
    exact pressButton_eq k _
  · rw [pressButton_ext]
    exact Buttons.held_put ..

theorem step_release {k : Button} (hf : s.fault = none) (hp : s.pending = .release k :: rest) :
    ∃ t, step s = .next t ∧
      t = (s.setPending rest).setExt { s.ext with buttons := t.ext.buttons, joypToken := t.ext.joypToken } ∧
      ∀ m, t.ext.buttons.held m = if m = k then false else s.ext.buttons.held m :=
  ⟨releaseButton k (s.setPending rest), step_external hf hp nofun, rfl,
    fun _ => Buttons.held_put ..⟩

/-- A running CPU with no stall owed performs the act. -/
theorem step_performAct {act : CpuAct} (hf : s.fault = none) (h0 : s.hdma.stall = 0) (hh : s.cpu.run ≠ .halted)
    (hs : s.cpu.run ≠ .stopped) (hp : s.pending = .cpuAct act :: rest) :
    step s = .next (performAct act (s.setPending rest)) := by
  have hi : (s.setPending rest).cpu.idles = false := by
    simp [← Bool.not_eq_true, Cpu.idles_iff, hh, hs]
  rw [step_cpuAct_of_zero hf h0 hp, cpuAct_of_runs act hi]

/-- A halted or stopped CPU with no stall owed drops it. -/
theorem step_cpuAct_of_idles {act : CpuAct} (hf : s.fault = none) (h0 : s.hdma.stall = 0)
    (hr : s.cpu.run = .halted ∨ s.cpu.run = .stopped) (hp : s.pending = .cpuAct act :: rest) :
    step s = .next (s.setPending rest) := by
  rw [step_cpuAct_of_zero hf h0 hp, cpuAct_of_idles act (s := s.setPending rest) ((Cpu.idles_iff _).mpr hr)]

/-- A fetch is a read at the PC, which then counts on unless the halt bug struck (R475). -/
theorem performAct_fetch (s : State) : ∃ b, exec (.rd true s.cpu.pc) s = .next (s.setRdata (some b)) ∧
    performAct .fetch s = (s.setRdata (some b)).setCpu { s.cpu with
      pc := if s.cpu.haltBug = true then s.cpu.pc else s.cpu.pc + 1#16, haltBug := false } := by
  refine ⟨(busRead s.cpu.pc true s).1, congrArg Host.Outcome.next (issueRead_eq ..), ?_⟩
  simp only [performAct, cpuFetch, issueRead_eq, State.setRdata_cpu]

theorem step_cpuService (hf : s.fault = none) (h0 : s.hdma.stall = 0) (hp : s.pending = .cpuService :: rest)
    (h1 : (cpuService (s.setPending rest)).hdma.stall = 0) : step s = .next (cpuService (s.setPending rest)) := by
  rw [step_external hf hp nofun, externalEffect, cpuStep_of_zero (s := s.setPending rest) h0 h1]

/-- A CPU that finds no enabled request goes on as it was. -/
theorem step_cpuService_of_none (hf : s.fault = none) (h0 : s.hdma.stall = 0) (hp : s.pending = .cpuService :: rest)
    (hn : ∀ n, n < 5 → ¬ (s.cpu.ie.getLsbD n = true ∧ s.cpu.ifr.getLsbD n = true)) :
    step s = .next (s.setPending rest) := by
  have hc : cpuService (s.setPending rest) = s.setPending rest :=
    cpuService_of_none ((Cpu.pendingEnabled_eq_zero_iff s.cpu).mpr hn)
  rw [step_cpuService hf h0 hp (by rw [hc]; exact h0), hc]

/-- One that finds a request enabled but not under the master enable wakes, and that is all (R471). -/
theorem step_cpuService_of_masked {n : Nat} (hf : s.fault = none) (h0 : s.hdma.stall = 0)
    (hp : s.pending = .cpuService :: rest) (hn : n < 5) (he : s.cpu.ie.getLsbD n = true)
    (hr : s.cpu.ifr.getLsbD n = true) (hm : s.cpu.ime = false) :
    step s = .next ((s.setPending rest).setCpu s.cpu.wake) := by
  have hw : s.cpu.pendingEnabled ≠ 0#8 := fun h => (Cpu.pendingEnabled_eq_zero_iff s.cpu).mp h n hn ⟨he, hr⟩
  have hc : cpuService (s.setPending rest) = (s.setPending rest).setCpu s.cpu.wake := cpuService_of_masked hw hm
  rw [step_cpuService hf h0 hp (by rw [hc]; exact h0), hc]

/-- An input of the CPU does what it would do after the orchestrator had taken the stall (R445). -/
theorem step_after_takeStall {x : Input} (hf : s.fault = none) (hp : s.pending = x :: rest)
    (hx : x = .cpuService ∨ (∃ act, x = .cpuAct act) ∨ ∃ acts cycles idle, x = .cpuTick acts cycles idle)
    (h0 : (takeStall (s.setPending rest)).hdma.stall = 0) :
    step s = step ((takeStall (s.setPending rest)).setPending (x :: rest)) := by
  obtain ⟨hf', hp'⟩ := takeStall_frame (s.setPending rest)
  have hw : ∀ w, x ≠ .word w := by
    rintro w rfl
    simp at hx
  have hu : ((takeStall (s.setPending rest)).setPending (x :: rest)).setPending rest = takeStall (s.setPending rest) := by
    have hs := State.setPending_same (takeStall (s.setPending rest))
    rwa [hp'] at hs
  rw [step_external hf hp hw,
    step_external (s := (takeStall (s.setPending rest)).setPending (x :: rest)) (hf'.trans hf) rfl hw, hu,
    externalEffect_takeStall hx h0]

end

/-- Settles O57, one lemma for each act: the stall is empty or run off first, and then the act is that of a CPU that runs,
sleeps or wakes. -/
theorem externalActs : Obligations.ExternalActs := by
  unfold Obligations.ExternalActs
  refine ⟨?_, ?_, ?_, ?_, ?_, ?_⟩
  · intro s rest k hf
    exact ⟨step_press hf, step_release hf⟩
  · intro s rest hf h0 hh hs
    have hrun : ∀ {act}, s.pending = .cpuAct act :: rest → step s = .next (performAct act (s.setPending rest)) :=
      step_performAct hf h0 hh hs
    refine ⟨fun hp => ?_, fun hp => ?_, fun hp => ?_, fun a hp => ?_, fun a v hp => ?_, fun af bc de hl sp pc ime hp => ?_⟩
    · exact ⟨_, hrun hp, rfl, rfl, cpuHalt_haltBug_iff (s.setPending rest)⟩
    · obtain ⟨b, hb, ht⟩ := performAct_fetch (s.setPending rest)
      exact ⟨b, hb, (hrun hp).trans (congrArg _ ht)⟩
    · exact ⟨_, hrun hp, rfl, rfl, cpuStop_switchArmed (s.setPending rest)⟩
    · exact hrun hp
    · exact hrun hp
    · exact ⟨_, hrun hp, rfl, and_FFF0_toNat af⟩
  · intro s rest act hf h0 hr hp
    exact step_cpuAct_of_idles hf h0 hr hp
  · intro s rest hf h0
    refine ⟨step_cpuService_of_none hf h0, fun n hp hn he hr hm => ⟨fun hrun => ?_, fun hrun => ?_⟩⟩
    · rw [step_cpuService_of_masked hf h0 hp hn he hr hm]
      simp [Cpu.wake, hrun]
    · rw [step_cpuService_of_masked hf h0 hp hn he hr hm]
      cases ha : s.cpu.switchArmed <;> simp [Cpu.wake, hrun, ha]
  · intro s rest hf hp hlt
    exact (step_external hf hp nofun).trans (exec_stall (s.setPending rest) hlt).symm
  · intro s rest x hf hp hx
    exact ⟨takeStall (s.setPending rest), step_external (s := s.setPending (.takeStall :: rest)) hf rfl nofun,
      fun hmap hinv => takeStall_stall hmap.1 (hinv.setPending rest), step_after_takeStall hf hp hx⟩

end Sys2Proof.Machine

namespace Sys2Proof.Machine

/-! The rows of the operation table as accesses of the bus (R126, R127). -/

section

variable {a : Addr} {p : Place}

/-- An address that has a row in the table lies in that row's place, at the row's offset. -/
theorem row_offset (h : tablePlaceAt a = some p) : tableOffset p a < p.size ∧ placeAddr p (tableOffset p a) = a := by
  simp only [tablePlaceAt] at h
  have hc := List.find?_some h
  rw [covers_iff] at hc
  have ho : tableOffset p a < p.size := by
    simp only [tableOffset]
    omega
  refine ⟨ho, BitVec.eq_of_toNat_eq ?_⟩
  rw [placeAddr_toNat ho, tableOffset]
  omega

/-- A field that is wide enough for a region's offsets keeps the address. -/
theorem placeAddr_row_region (h : tablePlaceAt a = some p) {n : Nat} (hn : p.size ≤ 2 ^ n) :
    placeAddr p (BitVec.ofNat n (tableOffset p a)).toNat = a := by
  obtain ⟨ho, ha⟩ := row_offset h
  rw [BitVec.toNat_ofNat, Nat.mod_eq_of_lt (Nat.lt_of_lt_of_le ho hn), ha]

/-- A one-byte register's row stands for its only address. -/
theorem placeAddr_row_register (h : tablePlaceAt a = some p) (hs : p.size = 1) : placeAddr p 0 = a := by
  obtain ⟨ho, ha⟩ := row_offset h
  rw [hs, Nat.lt_one_iff] at ho
  rw [← ha, ho]

/-- The read row of an address is the read of that address. -/
theorem exec_readInstr (h : tablePlaceAt a = some p) (hb : Bool) (s : State) :
    exec (readInstr p hb a) s = exec (.rd hb a) s := by
  have hat {b : Addr} (e : b = a) : Host.Outcome.next (issueRead b hb s) = exec (.rd hb a) s := e ▸ rfl
  cases p
  case vram | oam | wave => exact hat (placeAddr_row_region h (by decide))
  case cartRom | cartRam | wramFixed | wramBank | wramEcho | joyp | serialRegs | ifReg | speedSwitch | svbk | hram | ieReg =>
    rfl
  all_goals exact hat (placeAddr_row_register h rfl)

/-- The write row of an address is the write of that address. -/
theorem exec_writeInstr (h : tablePlaceAt a = some p) (hb : Bool) (v : Byte) (s : State) :
    exec (writeInstr p hb a v) s = exec (.wr hb a v) s := by
  have hat {b : Addr} (e : b = a) : Host.Outcome.next (busWrite b v hb s) = exec (.wr hb a v) s := e ▸ rfl
  cases p
  case vram | oam | wave => exact hat (placeAddr_row_region h (by decide))
  case cartRom | cartRam | wramFixed | wramBank | wramEcho | joyp | serialRegs | ifReg | speedSwitch | svbk | hram | ieReg =>
    rfl
  all_goals exact hat (placeAddr_row_register h rfl)

end

/-- A `BUS` word does what its own fields say, whatever row it decodes to (R127). -/
theorem exec_decodeBus (w : Word) (s : State) :
    exec (decodeBus w) s = if wordRw w = true then exec (.wr (wordHb w) (wordAddr w) (wordData w)) s
      else exec (.rd (wordHb w) (wordAddr w)) s := by
  cases hw : wordRw w <;> cases hp : tablePlaceAt (wordAddr w)
  · simp [decodeBus, hw, hp]
  · simp [decodeBus, hw, hp, exec_readInstr hp]
  · simp [decodeBus, hw, hp]
  · simp [decodeBus, hw, hp, exec_writeInstr hp]

/-- A read gives its issuer the byte that the dispatcher answers (R94, R163). -/
theorem exec_rd (hb : Bool) (a : Addr) (s : State) :
    exec (.rd hb a) s = .next (s.setRdata (some (busRead a hb s).1)) := congrArg Host.Outcome.next (issueRead_eq ..)

/-- Settles O9: a `BUS` word decodes to a row of the table, and each row is the access at its own address. -/
theorem busWordsAreAccesses : Obligations.BusWordsAreAccesses := by
  unfold Obligations.BusWordsAreAccesses
  refine ⟨fun w i s hd hc => ?_, fun w hc => ⟨_, decode_of_class_zero hc⟩, fun s hb a => ⟨_, exec_rd hb a s⟩⟩
  obtain rfl : decodeBus w = i := Except.ok.inj ((decode_of_class_zero hc).symm.trans hd)
  exact exec_decodeBus w s

/-! Where an access goes, and what it does there (R163, R164). -/

theorem route_of_blocked {s : State} {a : Addr} {g : Segment} (hg : s.cfg.segmentOf a = some g)
    (hb : s.bus.blocked g = true) : route s a true = .blocked g := by
  simp [route, hg, hb]

/-- An access that meets no blocked segment goes to the owner. -/
theorem route_of_not_blocked {s : State} {a : Addr} {hb : Bool} (h : ¬ AccessBlocked s a hb) :
    route s a hb = routeOwner s a := by
  simp only [route]
  split
  · rfl
  · next g hg =>
    have hn : ¬ (hb && s.bus.blocked g) = true := fun hh =>
      h ⟨(Bool.and_eq_true_iff.mp hh).1, g, hg, (Bool.and_eq_true_iff.mp hh).2⟩
    rw [if_neg hn]

theorem route_of_unowned {s : State} {a : Addr} {hb : Bool} (h : ¬ AccessBlocked s a hb) (ho : ownerOf s a = none) :
    route s a hb = .unmapped := by
  simp [route_of_not_blocked h, routeOwner, ho]

theorem route_of_owned {s : State} {a : Addr} {hb : Bool} {h : HandlerId} {p : Place} (hn : ¬ AccessBlocked s a hb)
    (ho : ownerOf s a = some h) (hp : s.cfg.placeAt h a = some p) :
    route s a hb = .deliver p (a.toNat - (s.cfg.base p).toNat) := by
  simp [route_of_not_blocked hn, routeOwner, ho, hp]

/-! Work RAM and high RAM (R84, R86, R167). -/

/-- The cell of work RAM as R86 gives it: bank 0 below `0x1000`, the selected bank from there on. -/
theorem wramCell_eq (mode : HwMode) (svbk : Byte) {pos : Nat} (h : pos < 0x2000) :
    wramCell mode svbk pos =
      0x1000 * (if pos < 0x1000 then 0 else if mode = .dmg ∨ svbk.toNat % 8 = 0 then 1 else svbk.toNat % 8) +
        pos % 0x1000 := by
  have hbank : wramBankOf mode svbk = if mode = .dmg ∨ svbk.toNat % 8 = 0 then 1 else svbk.toNat % 8 := by
    cases mode <;> simp [wramBankOf, BitVec.extractLsb'_toNat]
  simp only [wramCell, hbank]
  split <;> omega

/-- The three places of work RAM are windows on one memory: each shows the cell of its own position (R84). -/
theorem wramPlace_eq {p : Place} (hp : p ∈ [Place.wramFixed, .wramBank, .wramEcho]) (off : Nat) (a : Addr) (v : Byte)
    (hb : Bool) (s : State) :
    readPlace p off a hb s = readWram s (if p = .wramBank then 0x1000 + off else off) ∧
      writePlace p off a v hb s = writeWram (if p = .wramBank then 0x1000 + off else off) v s := by
  simp only [List.mem_cons, List.not_mem_nil, or_false] at hp
  obtain rfl | rfl | rfl := hp <;> exact ⟨rfl, rfl⟩

/-- A position that a place of work RAM shows lies in the two banks. -/
theorem wramPos_lt {p : Place} (hp : p ∈ [Place.wramFixed, .wramBank, .wramEcho]) {off : Nat} (ho : off < p.size) :
    (if p = .wramBank then 0x1000 + off else off) < 0x2000 := by
  simp only [List.mem_cons, List.not_mem_nil, or_false] at hp
  obtain rfl | rfl | rfl := hp
  · exact Nat.lt_trans ho (by decide)
  · exact Nat.add_lt_add_left ho 0x1000
  · exact Nat.lt_trans ho (by decide)

/-- High RAM as plain memory. -/
theorem hram_memory {s : State} (h : s.cfg.highRam = .memory) (off : Nat) (a : Addr) (v : Byte) :
    readHram off a s = readCell .highRam 0 s.ext.hram off ∧
      writeHram off a v s = s.setExt { s.ext with hram := insert s.ext.hram off v } := by
  simp [readHram, writeHram, h]

/-- High RAM as an opaque handler. -/
theorem hram_opaque {s : State} (h : s.cfg.highRam = .opaqueHandler) (off : Nat) (a : Addr) (v : Byte) :
    readHram off a s = Config.extRead .highRam s.ext.hramToken a ∧
      writeHram off a v s = s.setExt { s.ext with hramToken := Config.extWrite .highRam s.ext.hramToken a v } := by
  simp [readHram, writeHram, h, readOpaque, opaqueToken]

/-! What an access does, by where it goes. -/

/-- What a read returns, by the dispatcher's order (R163). -/
theorem exec_rd_result (s : State) (a : Addr) (hb : Bool) :
    ∃ b, exec (.rd hb a) s = .next (s.setRdata (some b)) ∧
      (∀ g, hb = true → s.cfg.segmentOf a = some g → s.bus.blocked g = true →
        b = if s.cfg.extBlockQuirk = true ∧ g = .general then s.bus.lastDmaByte else s.cfg.blockedReadValue) ∧
      (¬ AccessBlocked s a hb → ownerOf s a = none → b = s.cfg.unmappedReadValue) ∧
      (∀ h p, ¬ AccessBlocked s a hb → ownerOf s a = some h → s.cfg.placeAt h a = some p →
        b = readPlace p (a.toNat - (s.cfg.base p).toNat) a hb s) := by
  refine ⟨(busRead a hb s).1, exec_rd hb a s, ?_, ?_, ?_⟩
  · rintro g rfl hg hbl
    rw [busRead_blocked (route_of_blocked hg hbl)]
    simp [blockedByte]
  · intro hn ho
    exact busRead_unmapped (route_of_unowned hn ho)
  · intro h p hn ho hp
    exact busRead_deliver (route_of_owned hn ho hp)

/-- What a write does, by the dispatcher's order (R164). -/
theorem exec_wr_result (s : State) (a : Addr) (v : Byte) (hb : Bool) :
    (AccessBlocked s a hb → exec (.wr hb a v) s = .next s) ∧
    (¬ AccessBlocked s a hb → ownerOf s a = none → exec (.wr hb a v) s = .next s) ∧
    (∀ h p, ¬ AccessBlocked s a hb → ownerOf s a = some h → s.cfg.placeAt h a = some p →
      exec (.wr hb a v) s = .next (writePlace p (a.toNat - (s.cfg.base p).toNat) a v hb s)) := by
  refine ⟨?_, ?_, ?_⟩
  · rintro ⟨rfl, g, hg, hbl⟩
    exact congrArg Host.Outcome.next (busWrite_blocked (route_of_blocked hg hbl))
  · intro hn ho
    exact congrArg Host.Outcome.next (busWrite_unmapped (route_of_unowned hn ho))
  · intro h p hn ho hp
    exact congrArg Host.Outcome.next (busWrite_deliver (route_of_owned hn ho hp))

/-- Settles O10: the dispatcher's order gives the first two parts; where an access reaches its place the rest are the read
and write rules of the places outside the block. -/
theorem busAccessResult : Obligations.BusAccessResult := by
  unfold Obligations.BusAccessResult
  refine ⟨exec_rd_result, exec_wr_result, ?_, ?_, ?_, ?_⟩
  · intro s hb p off v hp ho hr
    obtain ⟨hrd, hwr⟩ := wramPlace_eq hp off (placeAddr p off) v hb s
    have hcell := wramCell_eq s.cfg.hwMode s.ext.svbk (wramPos_lt hp ho)
    refine ⟨?_, _, exec_wr_reached v hr, ?_, fun k => ?_⟩
    · rw [exec_rd_reached hr, hrd, readWram, hcell]
    · rw [hwr]
      rfl
    · rw [hwr, ← hcell]
      exact readCell_insert ..
  · intro s hb off v ho hr
    refine ⟨fun hm => ?_, fun hm => ?_⟩
    · obtain ⟨hrd, hwr⟩ := hram_memory hm off (placeAddr .hram off) v
      refine ⟨(exec_rd_reached hr).trans (by rw [readPlace, hrd]), _, (exec_wr_reached v hr).trans (by rw [writePlace, hwr]),
        rfl, fun k => readCell_insert ..⟩
    · obtain ⟨hrd, hwr⟩ := hram_opaque hm off (placeAddr .hram off) v
      exact ⟨(exec_rd_reached hr).trans (by rw [readPlace, hrd]), _, (exec_wr_reached v hr).trans (by rw [writePlace, hwr]),
        rfl⟩
  · intro s hb v
    exact ⟨fun hr => ⟨exec_rd_reached hr, exec_wr_reached v hr⟩, fun hr => ⟨exec_rd_reached hr, exec_wr_reached v hr⟩,
      fun hr => ⟨exec_rd_reached hr, exec_wr_reached v hr⟩⟩
  · intro s hb p off v ho hr
    have hrd := exec_rd_reached hr
    have hwr := exec_wr_reached v hr
    refine ⟨fun hp => ?_, ?_, ?_, ?_⟩
    · simp only [List.mem_cons, List.not_mem_nil, or_false] at hp
      obtain rfl | rfl := hp <;> exact ⟨hrd, hwr⟩
    · rintro rfl
      exact ⟨hrd, hwr⟩
    · rintro rfl
      exact ⟨hrd, hwr⟩
    · rintro rfl
      exact ⟨hrd, hwr⟩

end Sys2Proof.Machine

namespace Sys2Proof.Machine

/-! What a CPU step leaves owed: every general-purpose transfer it starts (R102, R308, R445). -/

/-- What every part of a CPU step keeps: the invariant, the default map, and the stall that is owed pays for the
general-purpose transfer under way. -/
def Covered (s : State) : Prop := Paying s.hdma.stall s

theorem Covered.setCpu {s : State} {c : Cpu} (hc : c.af &&& 0x000F#16 = 0#16) (h : Covered s) : Covered (s.setCpu c) :=
  ⟨h.1.setCpu hc, h.2⟩

theorem Covered.busWrite {s : State} (a : Addr) (v : Byte) (hb : Bool) (h : Covered s) : Covered (busWrite a v hb s) :=
  ⟨h.1.busWrite a v hb, (busWrite_cfg a v hb s).symm ▸ h.2.1, busWrite_due a v hb h.2.2⟩

theorem Covered.issueRead {s : State} (a : Addr) (hb : Bool) (h : Covered s) : Covered (issueRead a hb s) := by
  refine ⟨h.1.issueRead a hb, ?_⟩
  rw [issueRead_eq]
  exact h.2

/-- A tick changes what is owed by nothing, and brings a transfer under way nearer its end. -/
theorem Covered.ioTick {s : State} (n : Nat) (ds : Bool) (h : Covered s) : Covered (ioTick n ds s) := by
  have hk : Owing s.hdma.stall (Machine.ioTick n ds s) := Owing.ioTick n ds ⟨h.1, h.2.1, rfl⟩
  have hp : Paying s.hdma.stall (Machine.ioTick n ds s) :=
    ioTick_keeps (P := Paying s.hdma.stall) (fun _ h => h.tickTimer) (fun _ h => h.tickSerial) (fun _ h => h.tickDma)
      (fun _ h => h.tickPpu) (fun _ h => h.tickApu) (fun _ h => (h.mono (Nat.le_succ _)).tickHdma)
      (fun b _ h => h.setHalfPhase b) n ds h
  rw [Covered, hk.2.2]
  exact hp

theorem Covered.pushPc {s : State} (h : Covered s) : Covered (pushPc s) :=
  have hw := (h.busWrite (s.cpu.sp - 1#16) (s.cpu.pc.extractLsb' 8 8) true).busWrite (s.cpu.sp - 2#16)
    (s.cpu.pc.extractLsb' 0 8) true
  hw.setCpu hw.1.external.flags

theorem Covered.enterInterrupt {s : State} (n : Nat) (h : Covered s) : Covered (enterInterrupt n s) :=
  have hp := Covered.pushPc (h.setCpu (c := { s.cpu with run := .servicingInterrupt }) h.1.external.flags)
  hp.setCpu hp.1.external.flags

theorem Covered.serviceInterrupt {s : State} (n : Nat) (h : Covered s) : Covered (serviceInterrupt n s) :=
  have ht := (h.enterInterrupt n).ioTick 20 s.cpu.doubleSpeed
  ht.setCpu ht.1.external.flags

theorem Covered.cpuService {s : State} (h : Covered s) : Covered (cpuService s) := by
  have hw : Covered (s.setCpu s.cpu.wake) := h.setCpu (by rw [Cpu.wake_af]; exact h.1.external.flags)
  simp only [Machine.cpuService]
  split
  · exact h
  · split
    · exact hw.serviceInterrupt _
    · exact hw

theorem Covered.cpuAct {s : State} (act : CpuAct) (h : Covered s) : Covered (cpuAct act s) := by
  simp only [Machine.cpuAct]
  split
  · exact h
  · cases act with
    | fetch =>
      have hr := h.issueRead s.cpu.pc true
      exact hr.setCpu hr.1.external.flags
    | read a => exact h.issueRead a true
    | write a v => exact h.busWrite a v true
    | set af bc de hl sp pc ime => exact ⟨h.1.cpuSet af bc de hl sp pc ime, h.2⟩
    | halt => exact h.setCpu h.1.external.flags
    | stop => exact h.setCpu h.1.external.flags

theorem Covered.cpuActs {s : State} (acts : List CpuAct) (h : Covered s) :
    Covered (acts.foldl (fun s act => Machine.cpuAct act s) s) := by
  induction acts generalizing s with
  | nil => exact h
  | cons act acts ih => exact ih (h.cpuAct act)

theorem Covered.cpuTick {s : State} (acts : List CpuAct) (cycles idle : Nat) (h : Covered s) :
    Covered (cpuTick acts cycles idle s) := by
  obtain ⟨-, e⟩ | ⟨-, -, e⟩ | ⟨-, -, e⟩ := cpuTick_cases acts cycles idle s <;> rw [e]
  · exact h.cpuService
  · exact h.cpuService.ioTick ..
  · exact (h.cpuService.cpuActs acts).ioTick ..

theorem Hdma.not_busy_iff (h : Hdma) : ¬ h.busy = true ↔ h.state = .idle ∨ h.state = .terminated := by
  cases hs : h.state <;> simp [Hdma.busy, hs]

/-- With no stall owed and no general-purpose transfer under way nothing is left to pay. -/
theorem covered_of_idle {s : State} (hi : Inv s) (hm : s.cfg.baseOverride = [])
    (hgp : s.hdma.mode = .gp → s.hdma.state = .idle ∨ s.hdma.state = .terminated) : Covered s :=
  ⟨hi, hm, fun hmode hbusy => absurd hbusy ((Hdma.not_busy_iff _).mpr (hgp hmode))⟩

/-- The orchestrator's run of the stall leaves none owed and no general-purpose transfer under way (R102, R445). -/
theorem Covered.takeStall {s : State} (h : Covered s) : (takeStall s).hdma.stall = 0 ∧
    ((takeStall s).hdma.mode = .gp → (takeStall s).hdma.state = .idle ∨ (takeStall s).hdma.state = .terminated) :=
  ⟨takeStall_stall h.2.1 h.1, fun hmode => (Hdma.not_busy_iff _).mp fun hbusy => takeStall_over h ⟨hmode, hbusy⟩⟩

/-! The cases of the CPU's `Tick()`. -/

/-- An interrupt is wanted exactly if one of the five is both pending and enabled (R471). -/
theorem Cpu.pendingEnabled_ne_zero_iff (c : Cpu) :
    c.pendingEnabled ≠ 0#8 ↔ ∃ n, n < 5 ∧ c.ie.getLsbD n = true ∧ c.ifr.getLsbD n = true := by
  rw [ne_eq, Cpu.pendingEnabled_eq_zero_iff]
  push Not
  rfl

theorem Cpu.services_iff (c : Cpu) : c.services = true ↔
    (∃ n, n < 5 ∧ c.ie.getLsbD n = true ∧ c.ifr.getLsbD n = true) ∧ c.ime = true := by
  simp only [Cpu.services, Bool.and_eq_true, bne_iff_ne, Cpu.pendingEnabled_ne_zero_iff]

/-- Waking moves neither the requests nor the master enable. -/
theorem Cpu.wake_frame (c : Cpu) : c.wake.pendingEnabled = c.pendingEnabled ∧ c.wake.ime = c.ime := by
  simp only [Cpu.wake]
  split <;> exact ⟨rfl, rfl⟩

theorem Cpu.wake_idles (c : Cpu) : c.wake.idles = false := by
  cases h : c.run <;> simp [Cpu.wake, Cpu.idles, h]

/-- A CPU that runs has nothing to wake from. -/
theorem Cpu.wake_of_runs {c : Cpu} (h : c.idles = false) : c.wake = c := by
  cases hr : c.run with
  | running | servicingInterrupt => simp [Cpu.wake, hr]
  | halted | stopped => simp [Cpu.idles, hr] at h

/-- A CPU that runs and services nothing is left as it is by the look for an interrupt. -/
theorem cpuService_of_runs {s : State} (hs : s.cpu.services = false) (hi : s.cpu.idles = false) : cpuService s = s := by
  by_cases hp : s.cpu.pendingEnabled = 0#8
  · exact cpuService_of_none hp
  · have hm : s.cpu.ime = false := by simpa [Cpu.services, hp] using hs
    rw [cpuService_of_masked hp hm, Cpu.wake_of_runs hi, State.setCpu_same]

section

variable {s : State} (acts : List CpuAct) (cycles idle : Nat)

theorem cpuTick_of_services (h : s.cpu.services = true) : cpuTick acts cycles idle s = cpuService s := by
  simp [cpuTick, h]

/-- A CPU that runs and services nothing executes the instruction. -/
theorem cpuTick_of_runs (hs : s.cpu.services = false) (hi : s.cpu.idles = false) :
    cpuTick acts cycles idle s = executeInstruction acts cycles s := by
  simp [cpuTick, hs, cpuService_of_runs hs hi, hi]

/-- One that sleeps with nothing to wake it idles. -/
theorem cpuTick_of_idles (hp : s.cpu.pendingEnabled = 0#8) (hi : s.cpu.idles = true) :
    cpuTick acts cycles idle s = ioTick idle s.cpu.doubleSpeed s := by
  simp [cpuTick, Cpu.services, hp, cpuService_of_none hp, hi]

/-- Where a request is enabled but masked, a CPU that sleeps does in this call what the woken one does (R471). -/
theorem cpuTick_wake (hp : s.cpu.pendingEnabled ≠ 0#8) (hm : s.cpu.ime = false) :
    cpuTick acts cycles idle s = cpuTick acts cycles idle (s.setCpu s.cpu.wake) := by
  have hs : s.cpu.services = false := by simp [Cpu.services, hm]
  have hs' : s.cpu.wake.services = false := by simp [Cpu.services, (Cpu.wake_frame _).2, hm]
  rw [cpuTick_of_runs (s := s.setCpu s.cpu.wake) acts cycles idle hs' (Cpu.wake_idles _)]
  simp [cpuTick, hs, cpuService_of_masked hp hm, Cpu.wake_idles]

end

/-! The acts of one instruction, and the cycles it feeds on. -/

theorem State.setPending_of_pending {s : State} {q : List Input} (h : s.pending = q) : s.setPending q = s :=
  h ▸ State.setPending_same s

/-- The acts of an instruction take no input and raise no fault. -/
theorem cpuActs_frame (acts : List CpuAct) (s : State) :
    (acts.foldl (fun s act => cpuAct act s) s).pending = s.pending ∧
      (acts.foldl (fun s act => cpuAct act s) s).fault = s.fault := by
  induction acts generalizing s with
  | nil => exact ⟨rfl, rfl⟩
  | cons act acts ih =>
    obtain ⟨hp, hf, -⟩ := cpuAct_frame act s
    exact ⟨(ih _).1.trans hp, (ih _).2.trans hf⟩

/-- A stall that is owed changes no act of the CPU. -/
theorem cpuAct_owe (act : CpuAct) (n : Nat) (s : State) : cpuAct act (s.owe n) = (cpuAct act s).owe n := by
  simp only [cpuAct, State.owe_cpu, performAct_owe]
  split <;> rfl

/-- The `IOTICK` of the speed mode that holds (R440, R476). -/
theorem exec_ioTick (n : BitVec 16) (s : State) :
    exec (if s.cpu.doubleSpeed = true then .iotick2 n else .iotick n) s = .next (ioTick n.toNat s.cpu.doubleSpeed s) := by
  cases hd : s.cpu.doubleSpeed <;> rfl

section

variable {s : State} {rest : List Input} {acts : List CpuAct} {cycles idle : BitVec 16}

/-- With no stall owed a call of `Tick()` is the CPU's, and then the orchestrator's run of what it owes (R445). -/
theorem step_cpuTick (hf : s.fault = none) (h0 : s.hdma.stall = 0) (hp : s.pending = .cpuTick acts cycles idle :: rest) :
    step s = .next (takeStall (cpuTick acts cycles.toNat idle.toNat (s.setPending rest))) := by
  rw [step_external hf hp nofun, externalEffect, cpuStep, takeStall_of_zero (s := s.setPending rest) h0]

/-- A call that services an interrupt is the dispatch (R470, R471). -/
theorem step_cpuTick_of_services (hf : s.fault = none) (h0 : s.hdma.stall = 0)
    (hp : s.pending = .cpuTick acts cycles idle :: rest) (hs : s.cpu.services = true) :
    step s = step (s.setPending (.cpuService :: rest)) := by
  rw [step_cpuTick hf h0 hp, cpuTick_of_services (s := s.setPending rest) _ _ _ hs,
    step_external (s := s.setPending (.cpuService :: rest)) hf rfl nofun, State.setPending_twice, externalEffect, cpuStep,
    takeStall_of_zero (s := s.setPending rest) h0]

/-- A call on a CPU that a masked request wakes is the call on the woken one (R471). -/
theorem step_cpuTick_wake (hf : s.fault = none) (h0 : s.hdma.stall = 0)
    (hp : s.pending = .cpuTick acts cycles idle :: rest) (hw : s.cpu.pendingEnabled ≠ 0#8) (hm : s.cpu.ime = false) :
    step s = step (s.setCpu s.cpu.wake) := by
  rw [step_cpuTick hf h0 hp, cpuTick_wake (s := s.setPending rest) _ _ _ hw hm,
    step_cpuTick (s := s.setCpu s.cpu.wake) hf h0 hp]
  rfl

/-- A call that feeds `n` cycles on after the CPU's part `u` of it is an `IOTICK`, and then the run of what is owed. -/
theorem step_feeds {n : BitVec 16} {u : State} (hf : u.fault = none) (hp : u.pending = rest)
    (hs : step s = .next (takeStall (ioTick n.toNat u.cpu.doubleSpeed u))) :
    ∃ v, exec (if u.cpu.doubleSpeed = true then .iotick2 n else .iotick n) u = .next v ∧
      step s = step (v.setPending (.takeStall :: rest)) ∧ (v.hdma.stall = 0 → step s = .next v) := by
  obtain ⟨hf', hp'⟩ := ioTick_frame n.toNat u.cpu.doubleSpeed u
  refine ⟨_, exec_ioTick n u, ?_, fun h => by rw [hs, takeStall_of_zero h]⟩
  rw [hs, step_external (s := State.setPending _ (.takeStall :: rest)) (hf'.trans hf) rfl nofun, State.setPending_twice,
    State.setPending_of_pending (hp'.trans hp), externalEffect]

end

/-- Settles O60: what a call leaves owed follows from `Covered`; the other parts are the cases of the call,
each a step of its own. -/
theorem cpuTick_spec : Obligations.CpuTick := by
  unfold Obligations.CpuTick
  refine ⟨?_, fun s act n => cpuAct_owe act n s⟩
  intro s rest acts cycles idle hf h0 hp
  refine ⟨⟨_, step_cpuTick hf h0 hp, fun hmap hinv hgp => ?_⟩, fun hw hi => ?_, fun hw hm hrun => ?_,
    fun hw hm hrun => ?_, fun hw hsleep => ?_, fun hs hawake => ⟨?_, fun hz => ?_⟩⟩
  · exact ((covered_of_idle (s := s.setPending rest) (hinv.setPending rest) hmap.1 hgp).cpuTick ..).takeStall
  · exact step_cpuTick_of_services hf h0 hp ((Cpu.services_iff _).mpr ⟨hw, hi⟩)
  · rw [step_cpuTick_wake hf h0 hp ((Cpu.pendingEnabled_ne_zero_iff _).mpr hw) hm]
    simp [Cpu.wake, hrun]
  · rw [step_cpuTick_wake hf h0 hp ((Cpu.pendingEnabled_ne_zero_iff _).mpr hw) hm]
    cases ha : s.cpu.switchArmed <;> simp [Cpu.wake, hrun, ha]
  · have hnone : s.cpu.pendingEnabled = 0#8 := not_not.mp fun h => hw ((Cpu.pendingEnabled_ne_zero_iff _).mp h)
    refine step_feeds hf rfl ((step_cpuTick hf h0 hp).trans ?_)
    rw [cpuTick_of_idles (s := s.setPending rest) _ _ _ hnone ((Cpu.idles_iff _).mpr hsleep)]
  · have hserv : s.cpu.services = false := Bool.eq_false_iff.mpr fun h => hs ((Cpu.services_iff _).mp h)
    have hidle : s.cpu.idles = false := Bool.eq_false_iff.mpr fun h => hawake ((Cpu.idles_iff _).mp h)
    obtain ⟨hpend, hfault⟩ := cpuActs_frame acts (s.setPending rest)
    refine step_feeds (hfault.trans hf) hpend ((step_cpuTick hf h0 hp).trans ?_)
    rw [cpuTick_of_runs (s := s.setPending rest) _ _ _ hserv hidle, executeInstruction]
  · have h := stepAll_cpuActs acts rest (s.setPending rest) hf hz
    rwa [State.setPending_twice, State.setPending_of_pending (q := rest) (cpuActs_frame acts (s.setPending rest)).1] at h

end Sys2Proof.Machine

namespace Sys2Proof

/-! The word of an operation, decoded (R120 to R126). -/

section

variable {p : Place} {off : Nat} {hb : Bool}

theorem decode_encodeRead_place (hp : p ∈ Place.inTable) (ho : off < p.size) :
    decode (encodeRead hb (placeAddr p off)) = .ok (readInstr p hb (placeAddr p off)) :=
  decode_encodeRead hb (tablePlaceAt_placeAddr hp ho)

theorem decode_encodeWrite_place {v : Byte} (hp : p ∈ Place.inTable) (ho : off < p.size) :
    decode (encodeWrite hb (placeAddr p off) v) = .ok (writeInstr p hb (placeAddr p off) v) :=
  decode_encodeWrite hb v (tablePlaceAt_placeAddr hp ho)

end

/-- A field that is wide enough for a region's offsets keeps the offset of an address made from it. -/
theorem ofNat_tableOffset {p : Place} {n : Nat} (x : BitVec n) (hx : x.toNat < p.size) :
    BitVec.ofNat n (tableOffset p (placeAddr p x.toNat)) = x := by
  rw [tableOffset_placeAddr hx, BitVec.ofNat_toNat, BitVec.setWidth_eq]

theorem genericAddr_iff {a : Addr} : genericAddr a = true ↔ tablePlaceAt a = none := Option.isNone_iff_eq_none

theorem decode_encodeIotick (ds : Bool) (c : BitVec 16) :
    decode (encodeIotick ds c) = .ok (if ds = true then .iotick2 c else .iotick c) := by
  obtain ⟨hclass, hzero, hds, hcycles⟩ := encodeIotick_fields ds c
  simp only [decode, decodeIotick, hclass, hzero, hds, hcycles]
  cases ds <;> rfl

theorem decode_encodeBlock (g : Segment) (v : Bool) : decode (encodeBlock g v) = .ok (.block g v) := by
  cases g <;> cases v <;> rfl

theorem decode_encodeHandler (h : HandlerId) :
    decode (encodeHandler 3#4 h) = .ok (.register h) ∧ decode (encodeHandler 4#4 h) = .ok (.unregister h) := by
  cases h <;> exact ⟨rfl, rfl⟩

/-- The word of a well-formed operation decodes to it: a row of a register or region stands in the table at its own address,
a generic access at an address without a row, and the other formats hold their operands in fields. -/
theorem decode_encode {i : Instr} (h : i.wf = true) : decode (encode i) = .ok i := by
  cases i
  case rd hb a => exact decode_encodeRead_generic hb (genericAddr_iff.mp h)
  case wr hb a v => exact decode_encodeWrite_generic hb v (genericAddr_iff.mp h)
  case rdVram hb x =>
    have hx : x.toNat < Place.size .vram := x.isLt
    exact (decode_encodeRead_place (by decide) hx).trans (by rw [readInstr, ofNat_tableOffset x hx])
  case wrVram hb x v =>
    have hx : x.toNat < Place.size .vram := x.isLt
    exact (decode_encodeWrite_place (by decide) hx).trans (by rw [writeInstr, ofNat_tableOffset x hx])
  case rdOam hb x =>
    have hx : x.toNat < Place.size .oam := of_decide_eq_true h
    exact (decode_encodeRead_place (by decide) hx).trans (by rw [readInstr, ofNat_tableOffset x hx])
  case wrOam hb x v =>
    have hx : x.toNat < Place.size .oam := of_decide_eq_true h
    exact (decode_encodeWrite_place (by decide) hx).trans (by rw [writeInstr, ofNat_tableOffset x hx])
  case rdWave hb x =>
    have hx : x.toNat < Place.size .wave := x.isLt
    exact (decode_encodeRead_place (by decide) hx).trans (by rw [readInstr, ofNat_tableOffset x hx])
  case wrWave hb x v =>
    have hx : x.toNat < Place.size .wave := x.isLt
    exact (decode_encodeWrite_place (by decide) hx).trans (by rw [writeInstr, ofNat_tableOffset x hx])
  case iotick c => exact decode_encodeIotick false c
  case iotick2 c => exact decode_encodeIotick true c
  case block g v => exact decode_encodeBlock g v
  case register hid => exact (decode_encodeHandler hid).1
  case unregister hid => exact (decode_encodeHandler hid).2
  case reset | tickTimer | tickSerial | tickDma | tickPpu | tickApu | tickHdma => rfl
  case rdDiv | rdTima | rdTma | rdTac | rdNr10 | rdNr11 | rdNr12 | rdNr13 | rdNr14 | rdNr21 | rdNr22 | rdNr23 | rdNr24 |
      rdNr30 | rdNr31 | rdNr32 | rdNr33 | rdNr34 | rdNr41 | rdNr42 | rdNr43 | rdNr44 | rdNr50 | rdNr51 | rdNr52 | rdLcdc |
      rdStat | rdScy | rdScx | rdLy | rdLyc | rdDma | rdBgp | rdObp0 | rdObp1 | rdWy | rdWx | rdVbk | rdHdma1 | rdHdma2 |
      rdHdma3 | rdHdma4 | rdHdma5 | rdBcps | rdBcpd | rdOcps | rdOcpd | rdOpri =>
    exact (decode_encodeRead_place (off := 0) (by decide) (by decide)).trans rfl
  all_goals exact (decode_encodeWrite_place (off := 0) (by decide) (by decide)).trans rfl

/-- Settles O2, by the cases of the operation: `decode_encode`. -/
theorem decodeOfEncode : Obligations.DecodeOfEncode := fun _ h => decode_encode h

/-- Settles O1: each word written out is the word of a well-formed operation. -/
theorem decodeSpecWords : Obligations.DecodeSpecWords := by
  unfold Obligations.DecodeSpecWords
  exact ⟨decode_encode (i := .rdDiv true) rfl, decode_encode (i := .wrTac true 0x05#8) rfl,
    decode_encode (i := .wrDma false 0xC1#8) rfl, decode_encode (i := .wrHdma5 true 0x81#8) rfl,
    decode_encode (i := .wrLcdc true 0x91#8) rfl, decode_encode (i := .rdVram true 0x1FFF#13) rfl,
    decode_encode (i := .wrOam true 0x9F#8 0x7E#8) rfl, decode_encode (i := .rd true 0xFEA0#16) rfl,
    decode_encode (i := .wrNr14 true 0x87#8) rfl, decode_encode (i := .rdWave true 0xF#4) rfl,
    decode_encode (i := .iotick 4#16) rfl, decode_encode (i := .iotick2 3#16) rfl,
    decode_encode (i := .block .general false) rfl, decode_encode (i := .register .hdma) rfl,
    decode_encode (i := .unregister .cartridge) rfl, decode_encode (i := .reset) rfl, decode_encode (i := .tickPpu) rfl⟩

/-! A `BUS` word and the operation it decodes to (R121, R126). -/

section

variable {a : Addr} {p : Place}

/-- The word of an address's read row is the read word of that address. -/
theorem encode_readInstr (h : tablePlaceAt a = some p) (hb : Bool) : encode (readInstr p hb a) = encodeRead hb a := by
  cases p
  case vram | oam | wave => exact congrArg (encodeRead hb) (Machine.placeAddr_row_region h (by decide))
  case cartRom | cartRam | wramFixed | wramBank | wramEcho | joyp | serialRegs | ifReg | speedSwitch | svbk | hram | ieReg =>
    rfl
  all_goals exact congrArg (encodeRead hb) (Machine.placeAddr_row_register h rfl)

/-- The word of an address's write row is the write word of that address. -/
theorem encode_writeInstr (h : tablePlaceAt a = some p) (hb : Bool) (v : Byte) :
    encode (writeInstr p hb a v) = encodeWrite hb a v := by
  cases p
  case vram | oam | wave => exact congrArg (encodeWrite hb · v) (Machine.placeAddr_row_region h (by decide))
  case cartRom | cartRam | wramFixed | wramBank | wramEcho | joyp | serialRegs | ifReg | speedSwitch | svbk | hram | ieReg =>
    rfl
  all_goals exact congrArg (encodeWrite hb · v) (Machine.placeAddr_row_register h rfl)

/-- The OAM index of a row is one of 0..159, for OAM ends there (R28). -/
theorem oamIndexOk_row (h : tablePlaceAt a = some .oam) : oamIndexOk (BitVec.ofNat 8 (tableOffset .oam a)) = true := by
  have hs : tableOffset .oam a < 0xA0 := (Machine.row_offset h).1
  rw [oamIndexOk, decide_eq_true_eq, BitVec.toNat_ofNat]
  omega

/-- The rows of an address in the table are well-formed: none of them is a generic access. -/
theorem row_wf (h : tablePlaceAt a = some p) (hb : Bool) (v : Byte) :
    (readInstr p hb a).wf = true ∧ (writeInstr p hb a v).wf = true := by
  have hp : p ∈ Place.inTable := List.mem_of_find?_eq_some h
  cases p
  case oam => exact ⟨oamIndexOk_row h, oamIndexOk_row h⟩
  case cartRom | cartRam | wramFixed | wramBank | wramEcho | joyp | serialRegs | ifReg | speedSwitch | svbk | hram | ieReg =>
    exact absurd hp (by decide)
  all_goals exact ⟨rfl, rfl⟩

end

/-- The word of the operation a `BUS` word decodes to has its fields, with the data field of a read made 0 (R121). -/
theorem encode_decodeBus (w : Word) :
    encode (decodeBus w) = encodeBus (wordHb w) (wordRw w) (wordAddr w) (if wordRw w = true then wordData w else 0#8) := by
  cases hw : wordRw w <;> cases hp : tablePlaceAt (wordAddr w)
  · simp [decodeBus, hw, hp, encode, encodeRead]
  · simp [decodeBus, hw, hp, encode_readInstr hp, encodeRead]
  · simp [decodeBus, hw, hp, encode, encodeWrite]
  · simp [decodeBus, hw, hp, encode_writeInstr hp, encodeWrite]

theorem decodeBus_wf (w : Word) : (decodeBus w).wf = true := by
  cases hw : wordRw w <;> cases hp : tablePlaceAt (wordAddr w)
  · simp [decodeBus, hw, hp, Instr.wf, genericAddr_iff]
  · simp [decodeBus, hw, hp, (row_wf hp (wordHb w) 0#8).1]
  · simp [decodeBus, hw, hp, Instr.wf, genericAddr_iff]
  · simp [decodeBus, hw, hp, (row_wf hp (wordHb w) (wordData w)).2]

/-! A word put together again from the fields of its format (R121 to R125). -/

theorem eq_ofNat_of_toNat {k n : Nat} {x : BitVec k} (h : x.toNat = n) : x = BitVec.ofNat k n := by
  rw [← h, BitVec.ofNat_toNat, BitVec.setWidth_eq]

theorem ofBool_getLsbD {n : Nat} (x : BitVec n) (i : Nat) : BitVec.ofBool (x.getLsbD i) = x.extractLsb' i 1 := by
  ext j hj
  simp [BitVec.getElem_extractLsb', Nat.lt_one_iff.mp hj]

section

variable {w : Word}

theorem encodeBus_of_fields (hc : wordClass w = 0#4) :
    encodeBus (wordHb w) (wordRw w) (wordAddr w) (wordData w) = w := by
  simp only [encodeBus, ← hc, wordClass, wordHb, wordRw, wordAddr, wordData, ofBool_getLsbD,
    BitVec.extractLsb'_append_extractLsb'_eq_extractLsb', BitVec.extractLsb'_eq_self]

theorem encodeIotick_of_fields (hc : wordClass w = 1#4) (hz : w.extractLsb' 17 9 = 0#9) :
    encodeIotick (w.getLsbD 16) (w.extractLsb' 0 16) = w := by
  simp only [encodeIotick, ← hc, ← hz, wordClass, ofBool_getLsbD,
    BitVec.extractLsb'_append_extractLsb'_eq_extractLsb', BitVec.extractLsb'_eq_self]

theorem encodeBlock_of_fields (hc : wordClass w = 2#4) (hz : w.extractLsb' 2 24 = 0#24) :
    encodeBlock (if w.getLsbD 1 = true then .general else .oam) (w.getLsbD 0) = w := by
  have hseg : ((if w.getLsbD 1 = true then Segment.general else .oam) == .general) = w.getLsbD 1 := by
    cases w.getLsbD 1 <;> rfl
  simp only [encodeBlock, hseg, ← hc, ← hz, wordClass, ofBool_getLsbD,
    BitVec.extractLsb'_append_extractLsb'_eq_extractLsb', BitVec.extractLsb'_eq_self]

theorem encodeHandler_of_fields {h : HandlerId} (hz : w.extractLsb' 4 22 = 0#22) (hh : h.toBits = w.extractLsb' 0 4) :
    encodeHandler (wordClass w) h = w := by
  simp only [encodeHandler, hh, ← hz, wordClass, BitVec.extractLsb'_append_extractLsb'_eq_extractLsb',
    BitVec.extractLsb'_eq_self]

theorem encodeReset_of_fields (hc : wordClass w = 5#4) (hz : w.extractLsb' 0 26 = 0#26) : encode .reset = w := by
  simp only [encode, ← hc, ← hz, wordClass, BitVec.extractLsb'_append_extractLsb'_eq_extractLsb',
    BitVec.extractLsb'_eq_self]

theorem encodeDevtick_of_fields (hc : wordClass w = 7#4) (hz : w.extractLsb' 3 23 = 0#23) :
    encodeDevtick (w.extractLsb' 0 3) = w := by
  simp only [encodeDevtick, ← hc, ← hz, wordClass, BitVec.extractLsb'_append_extractLsb'_eq_extractLsb',
    BitVec.extractLsb'_eq_self]

end

/-! What each format's decoder accepts: its operation's own word, and a well-formed one (R122 to R125). -/

section

variable {w : Word} {i : Instr}

theorem encode_of_decodeIotick (hc : wordClass w = 1#4) (h : decodeIotick w = .ok i) : encode i = w ∧ i.wf = true := by
  simp only [decodeIotick] at h
  split at h
  · next hz =>
    have hw := encodeIotick_of_fields hc hz
    split at h <;> cases h
    · next hds => exact ⟨by rwa [hds] at hw, rfl⟩
    · next hds => exact ⟨by rwa [Bool.eq_false_iff.mpr hds] at hw, rfl⟩
  · cases h

theorem encode_of_decodeBlock (hc : wordClass w = 2#4) (h : decodeBlock w = .ok i) : encode i = w ∧ i.wf = true := by
  simp only [decodeBlock] at h
  split at h <;> cases h
  next hz => exact ⟨encodeBlock_of_fields hc hz, rfl⟩

theorem HandlerId.toBits_of_ofBits {b : BitVec 4} {h : HandlerId} (hh : HandlerId.ofBits b = some h) : h.toBits = b :=
  eq_of_beq (List.find?_some (p := fun k : HandlerId => k.toBits == b) hh)

theorem encode_of_decodeHandler {mk : HandlerId → Instr} (hmk : ∀ k, encode (mk k) = encodeHandler (wordClass w) k)
    (hwf : ∀ k, (mk k).wf = true) (h : decodeHandler (wordClass w) mk w = .ok i) : encode i = w ∧ i.wf = true := by
  simp only [decodeHandler] at h
  split at h
  · next hz =>
    split at h <;> cases h
    next k hk => exact ⟨(hmk k).trans (encodeHandler_of_fields hz (HandlerId.toBits_of_ofBits hk)), hwf k⟩
  · cases h

theorem encode_of_decodeReset (hc : wordClass w = 5#4) (h : decodeReset w = .ok i) : encode i = w ∧ i.wf = true := by
  simp only [decodeReset] at h
  split at h <;> cases h
  next hz => exact ⟨encodeReset_of_fields hc hz, rfl⟩

theorem encode_of_decodeDevtick (hc : wordClass w = 7#4) (h : decodeDevtick w = .ok i) : encode i = w ∧ i.wf = true := by
  simp only [decodeDevtick] at h
  split at h
  · next hz =>
    have hw {n : Nat} (hdev : (w.extractLsb' 0 3).toNat = n) : encodeDevtick (BitVec.ofNat 3 n) = w := by
      rw [← eq_ofNat_of_toNat hdev, encodeDevtick_of_fields hc hz]
    split at h <;> cases h
    all_goals next hdev => exact ⟨hw hdev, rfl⟩
  · cases h

/-- A word that decodes is a `BUS` word, or the word of the well-formed operation it decodes to. -/
theorem decode_ok_cases (h : decode w = .ok i) :
    (wordClass w = 0#4 ∧ decodeBus w = i) ∨ (encode i = w ∧ i.wf = true) := by
  simp only [decode] at h
  split at h
  case h_1 hn => exact .inl ⟨eq_ofNat_of_toNat hn, Except.ok.inj h⟩
  case h_2 hn => exact .inr (encode_of_decodeIotick (eq_ofNat_of_toNat hn) h)
  case h_3 hn => exact .inr (encode_of_decodeBlock (eq_ofNat_of_toNat hn) h)
  case h_4 hn =>
    rw [← eq_ofNat_of_toNat hn] at h
    exact .inr (encode_of_decodeHandler (fun k => by rw [eq_ofNat_of_toNat hn]; rfl) (fun _ => rfl) h)
  case h_5 hn =>
    rw [← eq_ofNat_of_toNat hn] at h
    exact .inr (encode_of_decodeHandler (fun k => by rw [eq_ofNat_of_toNat hn]; rfl) (fun _ => rfl) h)
  case h_6 hn => exact .inr (encode_of_decodeReset (eq_ofNat_of_toNat hn) h)
  case h_7 hn => exact .inr (encode_of_decodeDevtick (eq_ofNat_of_toNat hn) h)
  case h_8 => cases h

end

/-- Settles O3: only a `BUS` word has a field the decoder ignores, the data field of a read. -/
theorem encodeOfDecode : Obligations.EncodeOfDecode := by
  unfold Obligations.EncodeOfDecode
  intro w i h hcanon
  obtain ⟨hc, rfl⟩ | hw := decode_ok_cases h
  · refine ⟨?_, decodeBus_wf w⟩
    have hdata : (if wordRw w = true then wordData w else 0#8) = wordData w := by
      split
      · rfl
      · next hr => exact (hcanon hc (Bool.eq_false_iff.mpr hr)).symm
    rw [encode_decodeBus, hdata, encodeBus_of_fields hc]
  · exact hw

end Sys2Proof

namespace Sys2Proof.Machine

/-! What the APU's registers read (R152, R420, R422). -/

/-- A read that reaches a register answers what the register shows. -/
theorem exec_rd_register {s : State} {p : Place} {hb : Bool} {b : Byte} (h : Reached s p 0 hb)
    (hshow : readPlace p 0 (placeAddr p 0) hb s = b) :
    exec (.rd hb (placeAddr p 0)) s = .next (s.setRdata (some b)) := hshow ▸ exec_rd_reached h

/-- NR52 as R422 gives it: the power in bit 7, the enabled flags in bits 3 to 0, ones between them. -/
theorem Apu.nr52Byte_eq (a : Apu) : a.nr52Byte =
    (if a.power = true then 0x80#8 else 0x00#8) ||| 0x70#8
      ||| (if a.c4.enabled = true then 0x08#8 else 0x00#8) ||| (if a.c3.enabled = true then 0x04#8 else 0x00#8)
      ||| (if a.c2.enabled = true then 0x02#8 else 0x00#8) ||| (if a.c1.enabled = true then 0x01#8 else 0x00#8) := by
  rw [nr52Byte]
  cases a.power <;> cases a.c4.enabled <;> cases a.c3.enabled <;> cases a.c2.enabled <;> cases a.c1.enabled <;> rfl

/-- Settles O41: each register shows its bits under its mask; a mask of all ones hides the register, one of zero nothing. -/
theorem apuRegisterReads : Obligations.ApuRegisterReads := by
  unfold Obligations.ApuRegisterReads
  intro s hb
  have bare (b : Byte) : b ||| 0x00#8 = b := BitVec.or_zero
  have hidden (b : Byte) : b ||| 0xFF#8 = 0xFF#8 := BitVec.or_allOnes
  exact ⟨fun h => exec_rd_register h rfl, fun h => exec_rd_register h rfl, fun h => exec_rd_register h (bare _),
    fun h => exec_rd_register h (hidden _), fun h => exec_rd_register h rfl, fun h => exec_rd_register h rfl,
    fun h => exec_rd_register h (bare _), fun h => exec_rd_register h (hidden _), fun h => exec_rd_register h rfl,
    fun h => exec_rd_register h rfl, fun h => exec_rd_register h (hidden _), fun h => exec_rd_register h rfl,
    fun h => exec_rd_register h (hidden _), fun h => exec_rd_register h rfl, fun h => exec_rd_register h (hidden _),
    fun h => exec_rd_register h (bare _), fun h => exec_rd_register h (bare _), fun h => exec_rd_register h rfl,
    fun h => exec_rd_register h (bare _), fun h => exec_rd_register h (bare _),
    fun h => exec_rd_register h s.apu.nr52Byte_eq⟩

end Sys2Proof.Machine

namespace Sys2Proof.Machine

/-! The block flags and the delivery of an access (R161, R165). -/

/-- Settles O13: `setBlocked` writes the flag of its own segment. -/
theorem blockSetsOneFlag : Obligations.BlockSetsOneFlag := fun _ _ => ⟨rfl, rfl⟩

/-- Settles O11: an access that is not blocked goes to the owner, and in the default map the place's own handler owns it. -/
theorem registeredPlacesAreReached : Obligations.RegisteredPlacesAreReached :=
  fun _ _ _ _ hmap hp hr hoff hn => (route_of_not_blocked hn).trans (routeOwner_placeAddr hmap.1 hp hr hoff)

/-! The owner map: where the claims are disjoint, the owner of an address is the one handler that claims it (R22, R161). -/

theorem ownerOf_eq_some_iff {s : State} (hd : s.claimsDisjoint) {a : Addr} {h : HandlerId} :
    ownerOf s a = some h ↔ h ∈ s.bus.registered ∧ s.cfg.claims h a = true := by
  refine ⟨ownerOf_registered, fun ⟨hm, hc⟩ => ?_⟩
  have hex : (ownerOf s a).isSome = true := List.find?_isSome.mpr ⟨h, hm, hc⟩
  obtain ⟨k, hk⟩ := Option.isSome_iff_exists.mp hex
  obtain ⟨hkm, hkc⟩ := ownerOf_registered hk
  rw [hk, hd k hkm h hm a hkc hc]

theorem claims_iff {c : Config} {h : HandlerId} {a : Addr} :
    c.claims h a = true ↔ ∃ p ∈ c.claimedPlaces h, covers (c.base p) p.size a = true := by
  simp only [Config.claims, Config.placeAt, List.find?_isSome]

/-! The conflict of a registration (R161, R460). -/

/-- The address at which two places are said to overlap is an address of both. -/
theorem covers_of_sharedAddr {c : Config} {p q : Place} {n : Nat} (h : sharedAddr c p q = some n) :
    ∃ a : Addr, a.toNat = n ∧ covers (c.base p) p.size a = true ∧ covers (c.base q) q.size a = true := by
  simp only [sharedAddr] at h
  split at h
  · next hlt =>
    have hn := Option.some.inj h
    have ha : (BitVec.ofNat 16 n).toNat = n := by rw [BitVec.toNat_ofNat]; omega
    refine ⟨_, ha, ?_⟩
    rw [covers_iff, covers_iff, ha]
    omega
  · cases h

/-- Every overlap is an address of the claimed set that another registered handler claims. -/
theorem claimed_of_mem_claimOverlaps {s : State} {hid : HandlerId} {n : Nat} (h : n ∈ claimOverlaps s hid) :
    ∃ a : Addr, a.toNat = n ∧ s.cfg.claims hid a = true ∧
      ∃ k ∈ s.bus.registered, k ≠ hid ∧ s.cfg.claims k a = true := by
  simp only [claimOverlaps, List.mem_flatMap, List.mem_filter, bne_iff_ne, List.mem_filterMap] at h
  obtain ⟨k, ⟨hk, hne⟩, p, hp, q, hq, hpq⟩ := h
  obtain ⟨a, han, hap, haq⟩ := covers_of_sharedAddr hpq
  exact ⟨a, han, claims_iff.mpr ⟨p, hp, hap⟩, k, hk, hne, claims_iff.mpr ⟨q, hq, haq⟩⟩

theorem claimConflict_eq_none {s : State} {hid : HandlerId}
    (h : ∀ k ∈ s.bus.registered, ∀ a, s.cfg.claims hid a = true → s.cfg.claims k a = true → k = hid) :
    claimConflict s hid = none := by
  rw [claimConflict, List.min?_eq_none_iff, List.eq_nil_iff_forall_not_mem]
  intro n hn
  obtain ⟨a, -, ha, k, hk, hne, hka⟩ := claimed_of_mem_claimOverlaps hn
  exact hne (h k hk a ha hka)

/-- The conflict recorded is the lowest address of the claimed set that another handler claims. -/
theorem claimConflict_eq_some {s : State} {hid k : HandlerId} {a : Addr} (hk : k ∈ s.bus.registered) (hne : k ≠ hid)
    (ha : s.cfg.claims hid a = true) (hka : s.cfg.claims k a = true)
    (hmin : ∀ b, s.cfg.claims hid b = true → ∀ j ∈ s.bus.registered, j ≠ hid → s.cfg.claims j b = true →
      a.toNat ≤ b.toNat) :
    claimConflict s hid = some a.toNat := by
  have hle : ∀ n ∈ claimOverlaps s hid, a.toNat ≤ n := by
    intro n hn
    obtain ⟨b, rfl, hb, j, hj, hjne, hjb⟩ := claimed_of_mem_claimOverlaps hn
    exact hmin b hb j hj hjne hjb
  obtain ⟨n, hn, hna⟩ := mem_claimOverlaps hk hne ha hka
  rw [claimConflict, List.min?_eq_some_iff]
  exact ⟨Nat.le_antisymm hna (hle n hn) ▸ hn, hle⟩

/-! What `REGISTER` leaves registered (R161). -/

/-- The registered handlers after the handlers `hs` have been registered without a conflict, in id order: one that claims
no address has no entry to take. -/
def registeredWith (s : State) (hs : List HandlerId) : List HandlerId :=
  HandlerId.all.filter fun h => (hs.contains h && !(s.cfg.claimedPlaces h).isEmpty) || s.bus.registered.contains h

theorem mem_registeredWith {s : State} {hs : List HandlerId} {h : HandlerId} :
    h ∈ registeredWith s hs ↔ (h ∈ hs ∧ s.cfg.claimedPlaces h ≠ []) ∨ h ∈ s.bus.registered := by
  simp [registeredWith, HandlerId.mem_all]

theorem registeredWith_nil {s : State} (hcan : s.bus.canonical) : registeredWith s [] = s.bus.registered := by
  simpa [registeredWith] using hcan.symm

theorem registeredWith_canonical (s : State) (hs : List HandlerId) :
    (s.setBus { s.bus with registered := registeredWith s hs }).bus.canonical := by
  refine List.filter_congr fun h _ => ?_
  rw [State.setBus_bus, Bool.eq_iff_iff, List.contains_iff_mem, mem_registeredWith]
  simp

theorem registeredWith_cons (s : State) (h : HandlerId) (hs : List HandlerId) :
    registeredWith (s.setBus { s.bus with registered := registeredWith s [h] }) hs = registeredWith s (h :: hs) := by
  refine List.filter_congr fun k _ => ?_
  rw [Bool.eq_iff_iff, State.setBus_bus, State.setBus_cfg, Bool.or_eq_true, List.contains_iff_mem, mem_registeredWith]
  simp [or_and_right, or_assoc, or_left_comm]

/-- A registration that meets no conflict changes the list of the registered handlers and nothing else. -/
theorem registerHandler_of_no_conflict {s : State} {hid : HandlerId} (hcan : s.bus.canonical)
    (hc : claimConflict s hid = none) :
    registerHandler hid s = s.setBus { s.bus with registered := registeredWith s [hid] } := by
  simp only [registerHandler, hc]
  split
  · next he =>
    have hsame : registeredWith s [hid] = s.bus.registered := by
      rw [← registeredWith_nil hcan]
      refine List.filter_congr fun h _ => ?_
      by_cases hh : h = hid <;> simp [hh, he]
    rw [hsame, State.setBus_same]
  · next he =>
    have hsame : (HandlerId.all.filter fun h => h == hid || s.bus.registered.contains h) = registeredWith s [hid] := by
      refine List.filter_congr fun h _ => ?_
      by_cases hh : h = hid <;> simp [hh, he]
    rw [hsame]

/-- The claims stay disjoint: those of the new handler meet no conflict. -/
theorem claimsDisjoint_register {s : State} {hid : HandlerId} (hd : s.claimsDisjoint)
    (hc : claimConflict s hid = none) :
    (s.setBus { s.bus with registered := registeredWith s [hid] }).claimsDisjoint := by
  intro x hx y hy a hxa hya
  simp only [State.setBus_bus, mem_registeredWith, List.mem_singleton] at hx hy
  obtain ⟨rfl, -⟩ | hx := hx <;> obtain ⟨rfl, -⟩ | hy := hy
  · rfl
  · exact (claims_disjoint_of_none hc hy hxa hya).symm
  · exact claims_disjoint_of_none hc hx hya hxa
  · exact hd x hx y hy a hxa hya

/-- After `REGISTER` the new handler owns its claimed set, and every other address has the owner it had. -/
theorem ownerOf_register {s : State} {hid : HandlerId} (hd : s.claimsDisjoint) (hc : claimConflict s hid = none)
    (a : Addr) :
    ownerOf (s.setBus { s.bus with registered := registeredWith s [hid] }) a =
      if s.cfg.claims hid a = true then some hid else ownerOf s a := by
  ext k
  rw [ownerOf_eq_some_iff (claimsDisjoint_register hd hc), State.setBus_bus, State.setBus_cfg, mem_registeredWith,
    List.mem_singleton]
  split
  · next ha =>
    have hne : s.cfg.claimedPlaces hid ≠ [] := by
      obtain ⟨p, hp, -⟩ := claims_iff.mp ha
      exact List.ne_nil_of_mem hp
    constructor
    · rintro ⟨⟨rfl, -⟩ | hk, hka⟩
      · rfl
      · rw [claims_disjoint_of_none hc hk ha hka]
    · rintro ⟨⟩
      exact ⟨.inl ⟨rfl, hne⟩, ha⟩
  · next ha =>
    rw [ownerOf_eq_some_iff hd]
    constructor
    · rintro ⟨⟨rfl, -⟩ | hk, hka⟩
      · exact absurd hka ha
      · exact ⟨hk, hka⟩
    · exact fun ⟨hk, hka⟩ => ⟨.inr hk, hka⟩

/-- After `UNREGISTER` the handler owns nothing, and every address of another owner keeps it. -/
theorem ownerOf_unregister {s : State} {hid : HandlerId} (hd : s.claimsDisjoint) (a : Addr) :
    ownerOf (unregisterHandler hid s) a = if ownerOf s a = some hid then none else ownerOf s a := by
  have hd' : (unregisterHandler hid s).claimsDisjoint := fun x hx y hy b hxb hyb =>
    hd x (List.mem_of_mem_filter hx) y (List.mem_of_mem_filter hy) b hxb hyb
  ext k
  rw [ownerOf_eq_some_iff hd', unregisterHandler, State.setBus_bus, State.setBus_cfg, List.mem_filter, bne_iff_ne]
  split
  · next ho =>
    obtain ⟨hm, ha⟩ := ownerOf_registered ho
    simp only [reduceCtorEq, iff_false]
    exact fun ⟨⟨hk, hne⟩, hka⟩ => hne (hd k hk hid hm a hka ha)
  · next ho =>
    rw [ownerOf_eq_some_iff hd] at ho ⊢
    constructor
    · exact fun ⟨⟨hk, _⟩, hka⟩ => ⟨hk, hka⟩
    · exact fun ⟨hk, hka⟩ => ⟨⟨hk, fun he => ho (he ▸ ⟨hk, hka⟩)⟩, hka⟩

/-- Settles O12: with the claims disjoint, the overlaps that `REGISTER` looks for are the addresses another handler owns. -/
theorem ownerMapChanges : Obligations.OwnerMapChanges := by
  unfold Obligations.OwnerMapChanges
  refine ⟨fun s hid hinv => ⟨fun hfree => ?_, fun a h ha ho hne hmin => ?_⟩,
    fun s hid hinv => ⟨_, rfl, ownerOf_unregister hinv.disjoint, rfl⟩⟩
  · have hc : claimConflict s hid = none :=
      claimConflict_eq_none fun k hk a ha hka => hfree a k ha ((ownerOf_eq_some_iff hinv.disjoint).mpr ⟨hk, hka⟩)
    exact ⟨_, congrArg Host.Outcome.next (registerHandler_of_no_conflict hinv.canonical hc),
      ownerOf_register hinv.disjoint hc, rfl⟩
  · obtain ⟨hk, hka⟩ := ownerOf_registered ho
    have hc : claimConflict s hid = some a.toNat := claimConflict_eq_some hk hne ha hka fun b hb j hj hjne hjb =>
      hmin b j hb ((ownerOf_eq_some_iff hinv.disjoint).mpr ⟨hj, hjb⟩) hjne
    show Host.Outcome.next (registerHandler hid s) = _
    simp only [registerHandler, hc, raiseFault, BitVec.ofNat_toNat, BitVec.setWidth_eq]

/-! The orchestrator's registration (R168, R510). -/

/-- In the default map no two handlers claim one address. -/
theorem claims_default_unique {c : Config} (hc : c.baseOverride = []) {h k : HandlerId} {a : Addr}
    (hh : c.claims h a = true) (hk : c.claims k a = true) : h = k := by
  obtain ⟨p, hp⟩ := Option.isSome_iff_exists.mp hh
  obtain ⟨q, hq⟩ := Option.isSome_iff_exists.mp hk
  obtain ⟨hpa, rfl, -⟩ := placeAt_default hc hp
  obtain ⟨hqa, rfl, -⟩ := placeAt_default hc hq
  rw [place_unique hpa hqa]

/-- In the default map registrations one after another meet no conflict, whatever is registered before. -/
theorem execAll_register (hs : List HandlerId) {s : State} (hcan : s.bus.canonical) (hmap : s.cfg.baseOverride = []) :
    execAll (hs.map .register) s = .next (s.setBus { s.bus with registered := registeredWith s hs }) := by
  induction hs generalizing s with
  | nil => rw [registeredWith_nil hcan]; rfl
  | cons h hs ih =>
    have hc : claimConflict s h = none :=
      claimConflict_eq_none fun k _ a ha hka => claims_default_unique hmap hka ha
    show execAll (hs.map .register) (registerHandler h s) = _
    rw [registerHandler_of_no_conflict hcan hc, ih (registeredWith_canonical s [h]) hmap, registeredWith_cons]
    rfl

/-- Only the HDMA engine in DMG mode claims nothing: all its registers are marked (CGB) (R84, R208). -/
theorem claimedPlaces_isEmpty (c : Config) (h : HandlerId) :
    (c.claimedPlaces h).isEmpty = (h == .hdma && c.hwMode == .dmg) := by
  cases hm : c.hwMode <;> cases h <;> simp [Config.claimedPlaces, HandlerId.places, Config.present, Place.cgbOnly, hm]

/-- Registering every handler on an empty owner map leaves those that are present. -/
theorem registeredWith_all {s : State} (hempty : s.bus.registered = []) :
    registeredWith s HandlerId.all =
      if s.cfg.hwMode = .cgb then HandlerId.all
      else [.cartridge, .workRam, .highRam, .joypad, .serial, .timer, .cpuRegs, .apu, .ppu, .oamDma] := by
  simp only [registeredWith, claimedPlaces_isEmpty, hempty]
  cases s.cfg.hwMode <;> rfl

/-- The orchestrator's registration puts the words of the handlers present before the inputs still to come. -/
theorem step_registerAll {s : State} {rest : List Input} (hf : s.fault = none) (hp : s.pending = .registerAll :: rest) :
    step s = .next (s.setPending (s.cfg.presentHandlers.map (fun h => .word (encode (.register h))) ++ rest)) := by
  simp only [step, hp, acceptInput, State.setPending_fault, hf]
  rfl

/-- The words that register the handlers present, by their ids (R124). -/
theorem presentHandlers_words (c : Config) :
    c.presentHandlers.map (fun h => Input.word (encode (.register h))) =
      (if c.hwMode = .cgb then [0, 1, 2, 3, 4, 5, 6, 7, 8, 9, 10] else [0, 1, 2, 3, 4, 5, 6, 7, 8, 9]).map
        fun n => Input.word (0b0011#4 ++ 0#22 ++ BitVec.ofNat 4 n : BitVec 30) := by
  simp only [Config.presentHandlers]
  cases c.hwMode <;> rfl

/-- Settles O8: `RESET` is `resetBlock`, and on the empty owner map it leaves every registration succeeds. -/
theorem resetAndRegistration : Obligations.ResetAndRegistration := by
  unfold Obligations.ResetAndRegistration
  refine ⟨fun s => ⟨resetBlock s, rfl, rfl, rfl, rfl, rfl, rfl, rfl, rfl, rfl, ?_⟩,
    fun s hmap => ⟨resetBlock s, _, rfl, execAll_register _ rfl hmap.1, rfl, rfl, registeredWith_all rfl⟩,
    fun s rest hf hp => ?_⟩
  · rintro rfl
    rfl
  · rw [step_registerAll hf hp, presentHandlers_words]

end Sys2Proof.Machine

namespace Sys2Proof.Machine

/-! The plain registers of the PPU (R202). -/

/-- Settles O19: an access that reaches one of these registers reads its byte or stores the new one. -/
theorem plainPpuRegisters : Obligations.PlainPpuRegisters := by
  unfold Obligations.PlainPpuRegisters
  intro s hb v
  exact ⟨fun h => ⟨exec_rd_reached h, exec_wr_reached v h⟩, fun h => ⟨exec_rd_reached h, exec_wr_reached v h⟩,
    fun h => ⟨exec_rd_reached h, exec_wr_reached v h⟩, fun h => ⟨exec_rd_reached h, exec_wr_reached v h⟩,
    fun h => ⟨exec_rd_reached h, exec_wr_reached v h⟩, fun h => ⟨exec_rd_reached h, exec_wr_reached v h⟩,
    fun h => ⟨exec_rd_reached h, exec_wr_reached v h⟩⟩

/-! The STAT line (R190, R198). -/

/-- The condition of the STAT line, with its four parts spelled out. -/
theorem Ppu.statCondition_iff (p : Ppu) : p.statCondition = true ↔
    (p.statEn.getLsbD 0 = true ∧ p.mode = .hblank) ∨ (p.statEn.getLsbD 1 = true ∧ p.mode = .vblank) ∨
    (p.statEn.getLsbD 2 = true ∧ p.mode = .oamScan) ∨ (p.statEn.getLsbD 3 = true ∧ p.ly = p.lyc.toNat) := by
  simp [statCondition, coincidence, or_assoc]

/-- `UpdateStatLine` (R190) writes the line, requests interrupt 1 on a rise, and does nothing else. -/
theorem statLineUpdated_updateStatLine (s : State) : StatLineUpdated s (updateStatLine s) where
  line := by rw [updateStatLine_ppu]; exact s.ppu.statCondition_iff
  irq := by
    rw [updateStatLine_cpu, updateStatLine_ppu]
    cases s.ppu.statCondition <;> cases s.ppu.statLine <;> rfl
  rest := by
    rw [updateStatLine_ppu]
    simp only [updateStatLine]
    split <;> rfl

/-- What STAT reads, each part at its bits. -/
theorem Ppu.statByte_eq (p : Ppu) : p.statByte = 0x80#8 ||| (p.statEn.setWidth 8 <<< 3)
    ||| (if p.ly = p.lyc.toNat then 0x04#8 else 0x00#8)
    ||| (match p.mode with | .hblank => 0#8 | .vblank => 1#8 | .oamScan => 2#8 | .pixelTransfer => 3#8) := by
  have bits (en : BitVec 4) (b : Bool) (m : BitVec 2) : (1#1 ++ en ++ BitVec.ofBool b ++ m : BitVec 8) =
      0x80#8 ||| (en.setWidth 8 <<< 3) ||| (if b = true then 0x04#8 else 0x00#8) ||| m.setWidth 8 := by
    revert en b m
    decide
  rw [statByte, bits]
  simp only [coincidence, decide_eq_true_eq]
  cases p.mode <;> rfl

/-! Writes of LCDC (R195 to R197). -/

theorem writeLcdc_of_disable {s : State} {v : Byte} (ho : s.ppu.lcdc.getLsbD 7 = true) (hv : v.getLsbD 7 = false) :
    writeLcdc v s = updateStatLine (s.setPpu (Ppu.lcdOff { s.ppu with lcdc := v })) := by
  simp only [writeLcdc, Ppu.lcdEnabled, ho, hv]
  rfl

theorem writeLcdc_of_enable {s : State} {v : Byte} (ho : s.ppu.lcdc.getLsbD 7 = false) (hv : v.getLsbD 7 = true) :
    writeLcdc v s = updateStatLine (s.setPpu (Ppu.lcdOn { s.ppu with lcdc := v })) := by
  simp only [writeLcdc, Ppu.lcdEnabled, ho, hv]
  rfl

theorem writeLcdc_of_same {s : State} {v : Byte} (h : s.ppu.lcdc.getLsbD 7 = v.getLsbD 7) :
    writeLcdc v s = s.setPpu { s.ppu with lcdc := v } := by
  simp only [writeLcdc, Ppu.lcdEnabled, h]
  cases v.getLsbD 7 <;> rfl

/-- Settles O20: a write that flips bit 7 is `lcdOff` or `lcdOn` and then the STAT line's update. -/
theorem lcdcReadAndWrite : Obligations.LcdcReadAndWrite := by
  unfold Obligations.LcdcReadAndWrite
  intro s hb v h
  have hw : exec (.wrLcdc hb v) s = .next (writeLcdc v s) := exec_wr_reached v h
  refine ⟨exec_rd_reached h, fun ho hv => ⟨_, hw, ?_⟩, fun ho hv => ⟨_, hw, ?_⟩, fun hs => ?_⟩
  · rw [writeLcdc_of_disable ho hv]
    exact statLineUpdated_updateStatLine _
  · rw [writeLcdc_of_enable ho hv]
    exact statLineUpdated_updateStatLine _
  · rw [hw, writeLcdc_of_same hs]

/-- Settles O21: STAT is read bit by bit, and a write of STAT or LYC ends in the STAT line's update. -/
theorem statLyLycReadAndWrite : Obligations.StatLyLycReadAndWrite := by
  unfold Obligations.StatLyLycReadAndWrite
  intro s hb v
  refine ⟨fun h => ⟨?_, ?_⟩, fun h => ⟨exec_rd_reached h, exec_wr_reached v h⟩, fun h => ⟨exec_rd_reached h, ?_⟩⟩
  · exact exec_rd_register h s.ppu.statByte_eq
  · exact ⟨_, exec_wr_reached v h, statLineUpdated_updateStatLine _⟩
  · exact ⟨_, exec_wr_reached v h, statLineUpdated_updateStatLine _⟩

/-! The STAT line as `ly = lyc` alone drives it (R192). -/

/-- Where an access goes is up to the parameters and the dispatcher (R127). -/
theorem Reached.of_eq {s t : State} {p : Place} {off : Nat} {hb : Bool} (hc : t.cfg = s.cfg) (hd : t.bus = s.bus)
    (h : Reached s p off hb) : Reached t p off hb := by
  simp only [Reached, route, routeOwner, ownerOf, hc, hd] at h ⊢
  exact h

/-- Of the four STAT conditions only `ly = lyc` can hold: it is enabled, and no other enabled one is true (R192). -/
def Ppu.LycOnly (p : Ppu) : Prop :=
  p.statEn.getLsbD 3 = true ∧ ¬ (p.statEn.getLsbD 0 = true ∧ p.mode = .hblank) ∧
  ¬ (p.statEn.getLsbD 1 = true ∧ p.mode = .vblank) ∧ ¬ (p.statEn.getLsbD 2 = true ∧ p.mode = .oamScan)

/-- With a LYC of `v` the STAT line then follows `ly = v`. -/
theorem Ppu.LycOnly.statCondition_eq {p : Ppu} (h : p.LycOnly) (v : Byte) :
    Ppu.statCondition { p with lyc := v } = decide (p.ly = v.toNat) := by
  obtain ⟨hl, h0, h1, h2⟩ := h
  rw [Bool.eq_iff_iff, Ppu.statCondition_iff, decide_eq_true_eq]
  simp only [h0, h1, h2, hl, false_or, true_and]

/-- Where the condition holds on a low line, the line rises and requests interrupt 1. -/
theorem updateStatLine_of_rise {s : State} (hc : s.ppu.statCondition = true) (hl : s.ppu.statLine = false) :
    updateStatLine s = (s.setPpu { s.ppu with statLine := true }).setCpu { s.cpu with ifr := s.cpu.ifr ||| 0x02#8 } := by
  simp only [updateStatLine, hc, hl]
  rfl

/-- Where no condition holds, the line is low and requests nothing. -/
theorem updateStatLine_of_low {s : State} (hc : s.ppu.statCondition = false) :
    updateStatLine s = s.setPpu { s.ppu with statLine := false } := by
  simp only [updateStatLine, hc]
  rfl

/-- A write of LYC that makes `ly = lyc` true on a low line raises it. -/
theorem exec_wrLyc_of_rise {s : State} {hb : Bool} {v : Byte} (hr : Reached s .lyc 0 hb) (h : s.ppu.LycOnly)
    (hl : s.ppu.statLine = false) (hv : s.ppu.ly = v.toNat) :
    exec (.wrLyc hb v) s = .next ((s.setPpu { s.ppu with lyc := v, statLine := true }).setCpu
      { s.cpu with ifr := s.cpu.ifr ||| 0x02#8 }) :=
  have hc := (h.statCondition_eq v).trans (decide_eq_true hv)
  (exec_wr_reached v hr).trans (congrArg _ (updateStatLine_of_rise (s := s.setPpu { s.ppu with lyc := v }) hc hl))

/-- A write of LYC that makes `ly = lyc` false lowers the line and requests nothing. -/
theorem exec_wrLyc_of_fall {s : State} {hb : Bool} {v : Byte} (hr : Reached s .lyc 0 hb) (h : s.ppu.LycOnly)
    (hv : s.ppu.ly ≠ v.toNat) :
    exec (.wrLyc hb v) s = .next (s.setPpu { s.ppu with lyc := v, statLine := false }) :=
  have hc := (h.statCondition_eq v).trans (decide_eq_false hv)
  (exec_wr_reached v hr).trans (congrArg _ (updateStatLine_of_low (s := s.setPpu { s.ppu with lyc := v }) hc))

/-- Settles O22: the first write raises the line, the second lowers it, the third raises it again. -/
theorem lycToggleRequestsTwice : Obligations.LycToggleRequestsTwice := by
  unfold Obligations.LycToggleRequestsTwice
  intro s hb n c1 c2 hr h3 h0 h1 h2 hl hlt hn
  have honly : s.ppu.LycOnly := ⟨h3, h0, h1, h2⟩
  have hy : s.ppu.ly = (BitVec.ofNat 8 s.ppu.ly).toNat := by rw [BitVec.toNat_ofNat]; omega
  exact ⟨_, _, _, exec_wrLyc_of_rise hr honly hl hy, exec_wrLyc_of_fall (hr.of_eq rfl rfl) honly (Ne.symm hn),
    exec_wrLyc_of_rise (hr.of_eq rfl rfl) honly rfl hy, rfl, rfl, rfl⟩

/-! VRAM and OAM through the bus (R203 to R205). -/

theorem Ppu.busBank_eq (mode : HwMode) (p : Ppu) : p.busBank mode = if mode = .cgb then p.vbk.toNat else 0 := by
  cases mode <;> rfl

theorem Ppu.vramLocked_iff (c : Config) (hb : Bool) (p : Ppu) : p.vramLocked c hb = true ↔
    c.ppuModeAccessLock = true ∧ hb = true ∧ p.lcdc.getLsbD 7 = true ∧ p.mode = .pixelTransfer := by
  simp [vramLocked, lcdEnabled, and_assoc]

theorem Ppu.oamLocked_iff (c : Config) (hb : Bool) (p : Ppu) : p.oamLocked c hb = true ↔
    c.ppuModeAccessLock = true ∧ hb = true ∧ p.lcdc.getLsbD 7 = true ∧ (p.mode = .oamScan ∨ p.mode = .pixelTransfer) := by
  simp [oamLocked, lcdEnabled, and_assoc]

/-- A byte of VRAM after a bus write: banks do not overlap. -/
theorem PpuEnv.vram_writeVram (e : PpuEnv) (p : Ppu) (mode : HwMode) (off : BitVec 13) (v : Byte) (b : Nat) (o : BitVec 13) :
    e.vram (p.writeVram mode off.toNat v) b o.toNat = if b = p.busBank mode ∧ o = off then v else e.vram p b o.toNat := by
  have ho := o.isLt
  have hoff := off.isLt
  have hcell : 0x2000 * b + o.toNat = 0x2000 * p.busBank mode + off.toNat ↔ b = p.busBank mode ∧ o = off := by
    rw [← BitVec.toNat_inj]
    omega
  simp only [vram, Ppu.writeVram, readCell_insert, hcell]

/-- Settles O23: where the mode lock does not hold, the byte of the bank or of OAM is read or inserted. -/
theorem vramAndOamAccess : Obligations.VramAndOamAccess := by
  unfold Obligations.VramAndOamAccess
  refine ⟨fun s hb off v hr => ?_, fun s hb i v hr => ?_⟩
  · simp only [← Ppu.vramLocked_iff, ← Ppu.busBank_eq]
    have hrd : exec (.rdVram hb off) s = _ := exec_rd_reached hr
    have hwr : exec (.wrVram hb off v) s = _ := exec_wr_reached v hr
    rw [hrd, hwr]
    simp only [readPlace, writePlace]
    refine ⟨fun hl => ?_, fun hl => ?_⟩
    · rw [if_neg hl, if_neg hl]
      exact ⟨rfl, _, rfl, rfl, fun b o => s.ppuEnv.vram_writeVram s.ppu s.cfg.hwMode off v b.toNat o⟩
    · rw [if_pos hl, if_pos hl]
      exact ⟨rfl, rfl⟩
  · simp only [← Ppu.oamLocked_iff]
    have hrd : exec (.rdOam hb i) s = _ := exec_rd_reached hr
    have hwr : exec (.wrOam hb i v) s = _ := exec_wr_reached v hr
    rw [hrd, hwr]
    simp only [readPlace, writePlace]
    refine ⟨fun hl => ?_, fun hl => ?_⟩
    · rw [if_neg hl, if_neg hl]
      exact ⟨rfl, _, rfl, rfl, fun j => readCell_insert ..⟩
    · rw [if_pos hl, if_pos hl]
      exact ⟨rfl, rfl⟩

/-! The CGB registers (R203, R206, R207, R209). -/

theorem paletteIndexOf_eq (spec : Byte) : paletteIndexOf spec = spec.toNat % 64 := by
  simp [paletteIndexOf, BitVec.extractLsb'_toNat]

/-- A write of the data port keeps bits 7:6 of its register and counts the index field modulo 64 (R207). -/
theorem paletteSpecNext_toNat (spec : Byte) : (paletteSpecNext spec).toNat = spec.toNat / 64 * 64 +
    (if spec.getLsbD 7 = true then (spec.toNat + 1) % 64 else spec.toNat % 64) := by
  have hs := spec.isLt
  simp only [paletteSpecNext]
  split
  · have hlt : (spec.toNat + 1) % 64 < 2 ^ 6 := Nat.mod_lt _ (by decide)
    have hlow : (spec.extractLsb' 0 6 + 1#6).toNat = (spec.toNat + 1) % 64 := by
      simp [BitVec.extractLsb'_toNat]
    have hhigh : (spec.extractLsb' 6 2).toNat = spec.toNat / 64 := by
      rw [BitVec.extractLsb'_toNat, Nat.shiftRight_eq_div_pow]
      omega
    show (spec.extractLsb' 6 2 ++ (spec.extractLsb' 0 6 + 1#6)).toNat = _
    rw [BitVec.toNat_append, hlow, hhigh, ← Nat.shiftLeft_add_eq_or_of_lt hlt, Nat.shiftLeft_eq]
  · omega

/-- A one-bit register shows its bit, and ones above it (R203, R209). -/
theorem ones_append_bit (b : BitVec 1) : (0x7F#7 ++ b : BitVec 8) = 0xFE#8 ||| b.setWidth 8 := by
  revert b
  decide

theorem extractLsb'_low_bit (v : Byte) : v.extractLsb' 0 1 = v.setWidth 1 := BitVec.eq_of_toNat_eq rfl

/-- Settles O24: a data port reaches the palette byte at its register's index field. -/
theorem cgbPpuRegisters : Obligations.CgbPpuRegisters := by
  unfold Obligations.CgbPpuRegisters
  refine ⟨fun s hb v => ⟨fun h => ?_, fun h => ?_, fun h => ?_, fun h => ?_⟩, fun s hb v => ⟨fun h => ?_, fun h => ?_⟩⟩
  · rw [← ones_append_bit, ← extractLsb'_low_bit]
    exact ⟨exec_rd_reached h, exec_wr_reached v h⟩
  · rw [← ones_append_bit, ← extractLsb'_low_bit]
    exact ⟨exec_rd_reached h, exec_wr_reached v h⟩
  · exact ⟨exec_rd_reached h, exec_wr_reached v h⟩
  · exact ⟨exec_rd_reached h, exec_wr_reached v h⟩
  · rw [← paletteIndexOf_eq]
    exact ⟨exec_rd_reached h, _, exec_wr_reached v h, rfl, fun i => readCell_insert .., paletteSpecNext_toNat _⟩
  · rw [← paletteIndexOf_eq]
    exact ⟨exec_rd_reached h, _, exec_wr_reached v h, rfl, fun i => readCell_insert .., paletteSpecNext_toNat _⟩

end Sys2Proof.Machine

namespace Sys2Proof.Machine

/-! A dot with the LCD off (R182). -/

/-- Settles O26: `TICK_PPU` asks first whether the LCD is enabled. -/
theorem dotWithLcdOff : Obligations.DotWithLcdOff := by
  unfold Obligations.DotWithLcdOff
  intro s h
  show Host.Outcome.next (tickPpu s) = _
  simp only [tickPpu, Ppu.lcdEnabled, h]
  rfl

/-! What the work of a dot keeps of the line's state. -/

section

variable {p : Ppu}

/-- The STAT line, the count of window lines and the count of the line's sprites, which the pixel pipeline leaves alone. -/
def Ppu.lineState (p : Ppu) := (p.statLine, p.winLy, p.lineSprites)

@[simp] theorem Ppu.spriteTrigger_lineState : p.spriteTrigger.lineState = p.lineState := by
  simp only [Ppu.spriteTrigger]
  repeat' split
  all_goals rfl

@[simp] theorem Ppu.windowCheck_lineState (m : HwMode) : (p.windowCheck m).lineState = p.lineState := by
  simp only [Ppu.windowCheck]
  split <;> rfl

@[simp] theorem Ppu.fetcherStep_lineState (e : PpuEnv) : (p.fetcherStep e).lineState = p.lineState := by
  simp only [Ppu.fetcherStep, Ppu.push]
  repeat' split
  all_goals rfl

@[simp] theorem Ppu.spriteFetchStep_lineState (e : PpuEnv) : (p.spriteFetchStep e).lineState = p.lineState := by
  simp only [Ppu.spriteFetchStep]
  split <;> rfl

@[simp] theorem Ppu.pixelOutStep_lineState (e : PpuEnv) : (p.pixelOutStep e).lineState = p.lineState := by
  simp only [Ppu.pixelOutStep]
  repeat' split
  all_goals rfl

@[simp] theorem Ppu.pipelineStep_lineState (e : PpuEnv) : (p.pipelineStep e).lineState = p.lineState := by
  simp only [Ppu.pipelineStep]
  split <;> simp

/-- The OAM scan changes the sprite map and the count of its sprites, and nothing else (R223). -/
theorem Ppu.oamScanStep_eq (e : PpuEnv) (d : Nat) : p.oamScanStep e d =
    { p with spritesAt := (p.oamScanStep e d).spritesAt, lineSprites := (p.oamScanStep e d).lineSprites } := by
  simp only [Ppu.oamScanStep, Ppu.scanEntry]
  repeat' split
  all_goals rfl

/-! The dot by its mode (R183). -/

/-- The last dot of the OAM scan starts the pixel pipeline anew (R224). -/
theorem Ppu.dot_of_oamScan (e : PpuEnv) (hm : p.mode = .oamScan) : p.dot e =
    if p.lineTicks = 79 then
      Ppu.pipelineInit { p.oamScanStep e p.lineTicks with lineTicks := p.lineTicks + 1, mode := .pixelTransfer }
    else { p.oamScanStep e p.lineTicks with lineTicks := p.lineTicks + 1 } := by
  simp [Ppu.dot, Ppu.modeChange, Ppu.dotWork, hm]

/-- The dot that puts out the last pixel of a line ends the pixel transfer (R252). -/
theorem Ppu.dot_of_pixelTransfer (e : PpuEnv) (hm : p.mode = .pixelTransfer) : p.dot e =
    if (p.pipelineStep e).lx = 160 then
      { p.pipelineStep e with
        lineTicks := p.lineTicks + 1, mode := .hblank
        winLy := if (p.pipelineStep e).windowDrawn = true then (p.pipelineStep e).winLy + 1 else (p.pipelineStep e).winLy }
    else { p.pipelineStep e with lineTicks := p.lineTicks + 1 } := by
  simp [Ppu.dot, Ppu.modeChange, Ppu.dotWork, hm]

theorem Ppu.dot_of_blank (e : PpuEnv) (hm : p.mode ∈ [.hblank, .vblank]) :
    p.dot e = { p with lineTicks := p.lineTicks + 1 } := by
  simp only [List.mem_cons, List.not_mem_nil, or_false] at hm
  obtain hm | hm := hm <;> simp [Ppu.dot, Ppu.modeChange, Ppu.dotWork, hm]

theorem Ppu.dot_statLine (e : PpuEnv) : (p.dot e).statLine = p.statLine := by
  cases hm : p.mode with
  | hblank => rw [Ppu.dot_of_blank e (by simp [hm])]
  | vblank => rw [Ppu.dot_of_blank e (by simp [hm])]
  | oamScan =>
    rw [Ppu.dot_of_oamScan e hm, Ppu.oamScanStep_eq]
    split <;> rfl
  | pixelTransfer =>
    rw [Ppu.dot_of_pixelTransfer e hm]
    have hk : (p.pipelineStep e).statLine = p.statLine := congrArg Prod.fst (p.pipelineStep_lineState e)
    split <;> exact hk

end

/-! The end of a line (R184). -/

/-- A visible line starts with an empty sprite map, line 0 with no window line drawn (R221, R252). -/
theorem lineEnd_of_visible {s : State} (hy : (s.ppu.ly + 1) % 154 < 144) : lineEnd s = s.setPpu (Ppu.scanInit
    { s.ppu with
      lineTicks := 0, ly := (s.ppu.ly + 1) % 154, mode := .oamScan
      winLy := if (s.ppu.ly + 1) % 154 = 0 then 0 else s.ppu.winLy }) := by
  simp only [lineEnd, if_neg (Nat.ne_of_lt hy), if_pos hy]

/-- Entry to line 144: the VBlank event and interrupt 0 (R194). -/
theorem lineEnd_of_143 {s : State} (hy : s.ppu.ly = 143) : lineEnd s = emit (.vblank s.ppu.fb s.draws)
    (raiseIrq 0 (s.setPpu { s.ppu with lineTicks := 0, ly := (s.ppu.ly + 1) % 154, mode := .vblank })) := by
  simp only [lineEnd, hy]
  rfl

/-- Within VBlank only the line counts on. -/
theorem lineEnd_of_vblank {s : State} (hm : s.ppu.mode = .vblank) (hy : 144 < (s.ppu.ly + 1) % 154) :
    lineEnd s = s.setPpu { s.ppu with lineTicks := 0, ly := (s.ppu.ly + 1) % 154, mode := .vblank } := by
  simp only [lineEnd, if_neg (Nat.ne_of_gt hy), if_neg (Nat.lt_asymm hy), ← hm]

/-- The PPU after a line: in OAM scan on a visible line, and else in VBlank. -/
theorem lineEnd_ppu {s : State} (h : DotInv s.ppu) : (lineEnd s).ppu =
    if (s.ppu.ly + 1) % 154 < 144 then Ppu.scanInit
      { s.ppu with
        lineTicks := 0, ly := (s.ppu.ly + 1) % 154, mode := .oamScan
        winLy := if (s.ppu.ly + 1) % 154 = 0 then 0 else s.ppu.winLy }
    else { s.ppu with lineTicks := 0, ly := (s.ppu.ly + 1) % 154, mode := .vblank } := by
  have hlt := h.ly
  split
  · next hy => rw [lineEnd_of_visible hy]; rfl
  · next hy =>
    by_cases h3 : s.ppu.ly = 143
    · rw [lineEnd_of_143 h3]; rfl
    · rw [lineEnd_of_vblank (h.vblank.mpr (by omega)) (by omega)]; rfl

/-- The VBlank event is put out, and interrupt 0 requested, on entry to line 144 and at no other end of a line. -/
theorem lineEnd_outputs {s : State} (h : DotInv s.ppu) :
    (lineEnd s).trace = (if s.ppu.ly = 143 then s.trace ++ [.vblank s.ppu.fb s.draws] else s.trace) ∧
    (lineEnd s).cpu = { s.cpu with ifr := s.cpu.ifr ||| if s.ppu.ly = 143 then 0x01#8 else 0x00#8 } := by
  have hlt := h.ly
  by_cases h3 : s.ppu.ly = 143
  · rw [lineEnd_of_143 h3, if_pos h3, if_pos h3]
    exact ⟨rfl, rfl⟩
  · rw [if_neg h3, if_neg h3, BitVec.or_zero]
    by_cases hy : (s.ppu.ly + 1) % 154 < 144
    · rw [lineEnd_of_visible hy]
      exact ⟨rfl, rfl⟩
    · rw [lineEnd_of_vblank (h.vblank.mpr (by omega)) (by omega)]
      exact ⟨rfl, rfl⟩

/-! The dot as a whole (R183, R190, R194). -/

/-- Registers and memories that are the same, written as an update. -/
theorem Ppu.eq_of_programmed {p q : Ppu} (h : q.programmed = p.programmed) : q = { q with
    lcdc := p.lcdc, statEn := p.statEn, scy := p.scy, scx := p.scx, lyc := p.lyc, bgp := p.bgp, obp0 := p.obp0,
    obp1 := p.obp1, wy := p.wy, wx := p.wx, vbk := p.vbk, bcps := p.bcps, ocps := p.ocps, opri := p.opri, vram := p.vram,
    oam := p.oam, bgPal := p.bgPal, objPal := p.objPal } := by
  cases p
  cases q
  simp only [Ppu.programmed, Prod.mk.injEq] at h
  obtain ⟨rfl, rfl, rfl, rfl, rfl, rfl, rfl, rfl, rfl, rfl, rfl, rfl, rfl, rfl, rfl, rfl, rfl, rfl⟩ := h
  rfl

/-- A dot makes its state of the PPU, the CPU and the trace. -/
theorem tickPpu_eq (s : State) :
    tickPpu s = ((s.setPpu (tickPpu s).ppu).setCpu (tickPpu s).cpu).setTrace (tickPpu s).trace := by
  obtain ⟨h1, h2, h3, h4, h5, h6, h7, h8, h9, h10, h11, h12⟩ := tickPpu_frame s
  generalize tickPpu s = t at *
  cases s
  cases t
  subst h1 h2 h3 h4 h5 h6 h7 h8 h9 h10 h11 h12
  rfl

/-- The state after the dot's own work and mode change, before a line ends and the STAT line is updated. -/
def State.afterDot (s : State) : State := s.setPpu (s.ppu.dot s.ppuEnv)

@[simp] theorem State.afterDot_ppu (s : State) : s.afterDot.ppu = s.ppu.dot s.ppuEnv := rfl
@[simp] theorem State.afterDot_cpu (s : State) : s.afterDot.cpu = s.cpu := rfl
@[simp] theorem State.afterDot_trace (s : State) : s.afterDot.trace = s.trace := rfl
@[simp] theorem State.afterDot_draws (s : State) : s.afterDot.draws = s.draws := rfl

section

variable {s : State}

theorem PpuInv.afterDot (h : PpuInv s.ppu) (he : s.ppu.lcdEnabled = true) : DotInv s.afterDot.ppu :=
  ((h.toDot he).dot s.ppuEnv h.lineTicks h.transfer).1

theorem tickPpu_of_inside (he : s.ppu.lcdEnabled = true) (hl : s.ppu.lineTicks < 455) :
    tickPpu s = updateStatLine s.afterDot := by
  have hne : (s.ppu.dot s.ppuEnv).lineTicks ≠ 456 := by
    rw [(s.ppu.dot_line _).2]
    omega
  simp only [tickPpu, if_pos he]
  exact congrArg updateStatLine (if_neg hne)

theorem tickPpu_of_end (he : s.ppu.lcdEnabled = true) (hl : s.ppu.lineTicks = 455) :
    tickPpu s = updateStatLine (lineEnd s.afterDot) := by
  have heq : (s.ppu.dot s.ppuEnv).lineTicks = 456 := by rw [(s.ppu.dot_line _).2, hl]
  simp only [tickPpu, if_pos he]
  exact congrArg updateStatLine (if_pos heq)

/-- Inside a line the PPU is what the dot makes it, but for the STAT line. -/
theorem tickPpu_ppu_of_inside (he : s.ppu.lcdEnabled = true) (hl : s.ppu.lineTicks < 455) :
    ∃ b, (tickPpu s).ppu = { s.ppu.dot s.ppuEnv with statLine := b } := by
  rw [tickPpu_of_inside he hl]
  exact ⟨_, updateStatLine_ppu _⟩

/-- At the end of a line it is what the dot and `LineEnd` make it, but for the STAT line. -/
theorem tickPpu_ppu_of_end (h : PpuInv s.ppu) (he : s.ppu.lcdEnabled = true) (hl : s.ppu.lineTicks = 455) :
    ∃ b, (tickPpu s).ppu = if (s.ppu.ly + 1) % 154 < 144 then Ppu.scanInit
        { s.ppu.dot s.ppuEnv with
          lineTicks := 0, ly := (s.ppu.ly + 1) % 154, mode := .oamScan, statLine := b
          winLy := if (s.ppu.ly + 1) % 154 = 0 then 0 else (s.ppu.dot s.ppuEnv).winLy }
      else
        { s.ppu.dot s.ppuEnv with lineTicks := 0, ly := (s.ppu.ly + 1) % 154, mode := .vblank, statLine := b } := by
  have hd := h.afterDot he
  rw [tickPpu_of_end he hl, updateStatLine_ppu, lineEnd_ppu hd, State.afterDot_ppu, (s.ppu.dot_line _).1]
  generalize Ppu.statCondition _ = b
  refine ⟨b, ?_⟩
  split <;> rfl

/-- What a dot puts out before the STAT line is updated: at the end of line 143 the VBlank event and interrupt 0. -/
theorem tickPpu_outputs (h : PpuInv s.ppu) (he : s.ppu.lcdEnabled = true) :
    ∃ u, tickPpu s = updateStatLine u ∧ u.ppu.statLine = s.ppu.statLine ∧
      u.trace = (if s.ppu.lineTicks = 455 ∧ s.ppu.ly = 143 then s.trace ++ [.vblank (tickPpu s).ppu.fb s.draws] else s.trace) ∧
      u.cpu = { s.cpu with
        ifr := s.cpu.ifr ||| if s.ppu.lineTicks = 455 ∧ s.ppu.ly = 143 then 0x01#8 else 0x00#8 } := by
  have hd := h.afterDot he
  by_cases hl : s.ppu.lineTicks = 455
  · obtain ⟨ht, hc⟩ := lineEnd_outputs hd
    obtain ⟨b, hb⟩ := tickPpu_ppu_of_end h he hl
    have hfb : (tickPpu s).ppu.fb = (s.ppu.dot s.ppuEnv).fb := by
      rw [hb]
      split <;> rfl
    have hline : (lineEnd s.afterDot).ppu.statLine = s.ppu.statLine := by
      rw [lineEnd_ppu hd]
      split <;> exact s.ppu.dot_statLine _
    rw [hfb]
    simp only [State.afterDot_ppu, (s.ppu.dot_line _).1] at ht hc
    exact ⟨_, tickPpu_of_end he hl, hline, by simpa [hl] using ht, by simpa [hl] using hc⟩
  · have hlt := h.lineTicks
    refine ⟨_, tickPpu_of_inside he (by omega), s.ppu.dot_statLine _, ?_, ?_⟩
    · simp [hl]
    · simp [hl]

/-- After a dot the STAT line is its condition (R190). -/
theorem tickPpu_statLine (he : s.ppu.lcdEnabled = true) :
    (tickPpu s).ppu.statLine = (tickPpu s).ppu.statCondition := by
  simp only [tickPpu, if_pos he, updateStatLine_ppu]
  rfl

theorem tickPpu_trace (h : PpuInv s.ppu) (he : s.ppu.lcdEnabled = true) : (tickPpu s).trace =
    if s.ppu.lineTicks = 455 ∧ s.ppu.ly = 143 then s.trace ++ [.vblank (tickPpu s).ppu.fb s.draws] else s.trace := by
  obtain ⟨u, hu, -, ht, -⟩ := tickPpu_outputs h he
  rw [← ht, hu, (statLineUpdated_updateStatLine u).rest]
  rfl

theorem tickPpu_cpu_of_enabled (h : PpuInv s.ppu) (he : s.ppu.lcdEnabled = true) : (tickPpu s).cpu =
    { s.cpu with ifr := s.cpu.ifr
      ||| (if s.ppu.lineTicks = 455 ∧ s.ppu.ly = 143 then 0x01#8 else 0x00#8)
      ||| (if (tickPpu s).ppu.statLine = true ∧ s.ppu.statLine = false then 0x02#8 else 0x00#8) } := by
  obtain ⟨u, hu, hline, -, hc⟩ := tickPpu_outputs h he
  rw [hu, (statLineUpdated_updateStatLine u).irq, hline, hc]
  split
  · rfl
  · rw [BitVec.or_zero]

/-- The OAM scan ends with its 80th dot. -/
theorem tickPpu_oamScan_mode (he : s.ppu.lcdEnabled = true) (hl : s.ppu.lineTicks < 455) (hm : s.ppu.mode = .oamScan) :
    (tickPpu s).ppu.mode = if s.ppu.lineTicks = 79 then .pixelTransfer else .oamScan := by
  obtain ⟨b, hb⟩ := tickPpu_ppu_of_inside he hl
  rw [hb, Ppu.dot_of_oamScan _ hm]
  split
  · rfl
  · rw [Ppu.oamScanStep_eq]
    exact hm

/-- The pixel transfer ends with the 160th pixel, and then counts the window line it drew (R252). -/
theorem tickPpu_pixelTransfer (he : s.ppu.lcdEnabled = true) (hl : s.ppu.lineTicks < 455)
    (hm : s.ppu.mode = .pixelTransfer) :
    (tickPpu s).ppu.mode = (if (tickPpu s).ppu.lx = 160 then .hblank else .pixelTransfer) ∧
    (tickPpu s).ppu.lineSprites = s.ppu.lineSprites ∧
    (tickPpu s).ppu.winLy =
      if (tickPpu s).ppu.lx = 160 ∧ (tickPpu s).ppu.windowDrawn = true then s.ppu.winLy + 1 else s.ppu.winLy := by
  obtain ⟨b, hb⟩ := tickPpu_ppu_of_inside he hl
  have hk := s.ppu.pipelineStep_lineState s.ppuEnv
  simp only [Ppu.lineState, Prod.mk.injEq] at hk
  rw [hb, Ppu.dot_of_pixelTransfer _ hm]
  by_cases hx : (s.ppu.pipelineStep s.ppuEnv).lx = 160
  · simp [hx, hk]
  · simp [hx, hk, hm]

/-- A dot of HBlank or VBlank inside a line counts, and that is all. -/
theorem tickPpu_blank (he : s.ppu.lcdEnabled = true) (hl : s.ppu.lineTicks < 455)
    (hm : s.ppu.mode ∈ [.hblank, .vblank]) : (tickPpu s).ppu =
      { s.ppu with lineTicks := s.ppu.lineTicks + 1, statLine := (tickPpu s).ppu.statLine } := by
  obtain ⟨b, hb⟩ := tickPpu_ppu_of_inside he hl
  rw [hb, Ppu.dot_of_blank _ hm]

theorem tickPpu_blank_mode {m : Mode} (he : s.ppu.lcdEnabled = true) (hin : m ∈ [.hblank, .vblank])
    (hl : s.ppu.lineTicks < 455) (hm : s.ppu.mode = m) : (tickPpu s).ppu.mode = m := by
  rw [tickPpu_blank he hl (hm ▸ hin), hm]

end

/-- Settles O27: inside a line the PPU is what `dot` makes it in the mode, at its end what `LineEnd` makes of that; each
clause reads one part of these two results. -/
theorem dotTiming : Obligations.DotTiming := by
  unfold Obligations.DotTiming
  intro s h he
  have inside := tickPpu_ppu_of_inside (s := s) he
  have lineEnds := tickPpu_ppu_of_end h he
  refine ⟨tickPpu s, rfl, tickPpu_eq s, fun hl => ?countInside, fun hl => ?countAtEnd, tickPpu_oamScan_mode he,
    fun hl hm => (tickPpu_pixelTransfer he hl hm).1, tickPpu_blank_mode he (by decide), tickPpu_blank_mode he (by decide),
    Ppu.eq_of_programmed (tickPpu_programmed s), fun hl hm => ?oamScan, fun hl hm => (tickPpu_pixelTransfer he hl hm).2,
    tickPpu_blank he, fun hl => ?visibleLine, fun hl hm => ?blankAtEnd, ?statLine, tickPpu_cpu_of_enabled h he⟩
  case countInside =>
    obtain ⟨b, hb⟩ := inside hl
    obtain ⟨hly, hlt⟩ := s.ppu.dot_line s.ppuEnv
    rw [tickPpu_trace h he, hb]
    exact ⟨hlt, hly, if_neg fun hc => Nat.ne_of_lt hl hc.1⟩
  case countAtEnd =>
    obtain ⟨b, hb⟩ := lineEnds hl
    rw [tickPpu_trace h he, hb]
    simp only [hl, true_and]
    split <;> simp [Ppu.scanInit]
  case oamScan =>
    obtain ⟨b, hb⟩ := inside hl
    rw [hb, Ppu.dot_of_oamScan _ hm, Ppu.oamScanStep_eq]
    split <;> rfl
  case visibleLine =>
    obtain ⟨b, hb⟩ := lineEnds hl
    rw [hb]
    split
    · exact fun _ => ⟨rfl, rfl, rfl⟩
    · next hn => exact fun hv => absurd hv hn
  case blankAtEnd =>
    obtain ⟨b, hb⟩ := lineEnds hl
    rw [hb, Ppu.dot_of_blank _ hm]
    split <;> rfl
  case statLine =>
    rw [tickPpu_statLine he]
    exact Ppu.statCondition_iff _

end Sys2Proof.Machine

namespace Sys2Proof.Machine

/-! A run of one operation. -/

/-- An operation that always answers a next state, executed `n` times, is its function applied `n` times. -/
theorem execAll_replicate {i : Instr} {f : State → State} (hi : ∀ s, exec i s = .next (f s)) (n : Nat) (s : State) :
    execAll (List.replicate n i) s = .next (repeatN n f s) := by
  induction n generalizing s with
  | zero => rfl
  | succ n ih =>
    simp only [List.replicate_succ, execAll, hi]
    exact ih (f s)

theorem execAll_tickPpu (n : Nat) (s : State) :
    execAll (List.replicate n .tickPpu) s = .next (repeatN n tickPpu s) :=
  execAll_replicate (fun _ => rfl) n s

/-- What one step does to a field, any number of steps do. -/
theorem repeatN_map {α β : Type} {g : α → β} {f : α → α} {f' : β → β} (hf : ∀ a, g (f a) = f' (g a)) (n : Nat) (a : α) :
    g (repeatN n f a) = repeatN n f' (g a) := by
  induction n generalizing a with
  | zero => rfl
  | succ n ih => rw [repeatN_succ, repeatN_succ, ih, hf]

/-- The VRAM bank that bit 3 selects (R141, R142). -/
theorem attrBank_eq (a : Byte) : attrBank a = if a.getLsbD 3 = true then 1 else 0 := by
  simp only [attrBank]
  cases a.getLsbD 3 <;> rfl

/-! The sprite fetcher (R240 to R245). -/

section

variable {p : Ppu}

/-- The sprite state after one dot of the fetch (R242). -/
def SpriteState.next : SpriteState → SpriteState
  | .idle | .high => .idle
  | .oamSleep => .oam
  | .oam => .lowSleep
  | .lowSleep => .low
  | .low => .highSleep
  | .highSleep => .high

theorem Ppu.spriteFetchStep_spriteState (e : PpuEnv) : (p.spriteFetchStep e).spriteState = p.spriteState.next := by
  cases h : p.spriteState <;> simp [spriteFetchStep, spriteOam, spriteLow, spriteHigh, SpriteState.next, h]

/-- A fetch that has just started is under way for five more dots. -/
theorem Ppu.spriteFetch_busy (e : PpuEnv) (h : p.spriteState = .oamSleep) {n : Nat} (hn : n < 6) :
    (repeatN n (Ppu.spriteFetchStep e) p).spriteState ≠ .idle := by
  have hstates : ∀ k < 6, repeatN k SpriteState.next .oamSleep ≠ .idle := by decide
  rw [repeatN_map fun q => Ppu.spriteFetchStep_spriteState (p := q) e, h]
  exact hstates n hn

/-- The fetch looks neither at the dot of the line nor at the STAT line. -/
theorem Ppu.spriteFetchStep_line (e : PpuEnv) (l : Nat) (b : Bool) :
    Ppu.spriteFetchStep e { p with lineTicks := l, statLine := b } =
      { p.spriteFetchStep e with lineTicks := l, statLine := b } := by
  cases h : p.spriteState <;> simp only [spriteFetchStep, h] <;> rfl

/-- The tile fetcher's state and latches. -/
def Ppu.fetcher (p : Ppu) := (p.fetchState, p.fetchX, p.fTile, p.fAttr, p.fAddr, p.fLow, p.fHigh)

/-- What a sprite fetch leaves alone: the sprites, the tile fetcher, the window and the pixel output but the sprite FIFO. -/
def Ppu.besideSpriteFetch (p : Ppu) :=
  (p.curSprite, p.spritesAt, p.mode, p.lx, p.bgFifo, p.fb, p.discard, p.inWindow, p.windowDrawn, p.fetcher)

theorem Ppu.spriteTrigger_of_busy (h : p.spriteState ≠ .idle) : p.spriteTrigger = p := by
  simp [spriteTrigger, h]

/-- The PPU with sprite `r` taken for its fetch, which leaves `q` waiting (R240). -/
def Ppu.takeSprite (r : Sprite) (q : List Sprite) (p : Ppu) : Ppu :=
  { p with curSprite := r, spritesAt := setQueue p.spritesAt p.lx q, spriteState := .oamSleep }

theorem Ppu.spriteTrigger_of_waiting {r : Sprite} {q : List Sprite} (he : p.lcdc.getLsbD 1 = true)
    (hi : p.spriteState = .idle) (hq : queueAt p.spritesAt p.lx = r :: q) : p.spriteTrigger = p.takeSprite r q := by
  simp [spriteTrigger, spritesEnabled, takeSprite, he, hi, hq]

/-- The row of the sprite over naturals: 256 is a multiple of both heights (R244). -/
theorem Ppu.spriteRow_eq : p.spriteRow =
    if p.sAttr.getLsbD 6 = true then p.spriteHeight - 1 - (p.ly + 272 - p.curSprite.y.toNat) % p.spriteHeight
    else (p.ly + 272 - p.curSprite.y.toNat) % p.spriteHeight := by
  have hy := p.curSprite.y.isLt
  have hrow : (((p.ly : Int) + 16 - p.curSprite.y.toNat) % p.spriteHeight).toNat =
      (p.ly + 272 - p.curSprite.y.toNat) % p.spriteHeight := by
    simp only [spriteHeight]
    split <;> omega
  simp only [spriteRow, attrVFlip, hrow]

/-- The tile of a tall sprite is the even one of its pair (R244). -/
theorem Ppu.spriteTile_toNat : p.spriteTile.toNat =
    if p.spriteHeight = 16 then p.sTile.toNat / 2 * 2 else p.sTile.toNat := by
  have heven (b : Byte) : (b &&& 0xFE#8).toNat = b.toNat / 2 * 2 := by
    revert b
    decide
  cases h : p.tallSprites <;> simp [spriteTile, spriteHeight, h, heven]

theorem Ppu.spriteBank_eq (m : HwMode) : p.spriteBank m = if m = .cgb ∧ p.sAttr.getLsbD 3 = true then 1 else 0 := by
  cases m <;> simp [spriteBank, attrBank_eq]

theorem Ppu.spritePixel_eq (m : HwMode) (j : Nat) : p.spritePixel m j =
    ⟨rowPixel p.sLow p.sHigh j,
      if m = .cgb then p.sAttr.extractLsb' 0 3 else if p.sAttr.getLsbD 4 = true then 1#3 else 0#3,
      p.sAttr.getLsbD 7, p.curSprite.index⟩ := by
  cases m <;> rfl

end

/-! The merge (R245). -/

/-- A sprite pixel replaces a transparent one if it is opaque, and in CGB mode one of a larger OAM index. -/
theorem replaces_iff (m : HwMode) (r e : Pixel) : replaces m r e = true ↔
    r.colorIndex ≠ 0#2 ∧ (e.colorIndex = 0#2 ∨ (m = .cgb ∧ r.spritePriority < e.spritePriority)) := by
  simp [replaces]

/-- A merge leaves alone what lies behind the sprite's pixels. -/
theorem mergePixels_getElem?_of_none (m : HwMode) {rs : List Pixel} (q : List Pixel) {k : Nat} (hr : rs[k]? = none) :
    (mergePixels m rs q)[k]? = q[k]? := by
  induction rs generalizing q k with
  | nil => rfl
  | cons r rs ih => cases q <;> cases k <;> simp_all [mergePixels]

/-- A sprite's pixel is appended where there was none, and else replaces the one that is there or not. -/
theorem mergePixels_getElem?_of_some (m : HwMode) {rs : List Pixel} (q : List Pixel) {k : Nat} {r : Pixel}
    (hr : rs[k]? = some r) :
    (mergePixels m rs q)[k]? = some (q[k]?.elim r fun e => if replaces m r e = true then r else e) := by
  induction rs generalizing q k with
  | nil => simp at hr
  | cons r' rs ih => cases q <;> cases k <;> simp_all [mergePixels]

/-- The pixels of a row that are on the screen, from its first such pixel on. -/
theorem getElem?_drop_range_map {α : Type} (f : Nat → α) (d k : Nat) :
    (((List.range 8).drop d).map f)[k]? = if 8 ≤ k + d then none else some (f (k + d)) := by
  rw [List.getElem?_map, List.getElem?_drop, Nat.add_comm]
  split
  · next h => simp [h]
  · next h => simp [Nat.lt_of_not_le h]

/-! What a sprite fetch makes of the PPU (R243 to R245). -/

section

variable {p : Ppu} (e : PpuEnv)

/-- The PPU after the three reads of a sprite fetch. -/
def Ppu.spriteFetched (p : Ppu) : Ppu := ((p.spriteOam e).spriteLow e).spriteHigh e

/-- The six dots of a fetch are the three reads, with a dot of sleep before each (R242 to R245). -/
theorem Ppu.spriteFetch_eq (h : p.spriteState = .oamSleep) :
    repeatN 6 (Ppu.spriteFetchStep e) p = p.spriteFetched e := by
  cases p
  cases h
  rfl

/-- A byte of the sprite's data, flipped horizontally if bit 5 of `a` asks for it (R244). -/
def Ppu.spriteData (a : Byte) (i : Nat) (p : Ppu) : Byte :=
  flipIf a (e.vram p (if e.cfg.hwMode = .cgb ∧ a.getLsbD 3 = true then 1 else 0) i)

theorem Ppu.spriteFetched_besideSpriteFetch : (p.spriteFetched e).besideSpriteFetch = p.besideSpriteFetch :=
  calc (p.spriteFetched e).besideSpriteFetch
    _ = ((p.spriteOam e).spriteLow e).besideSpriteFetch := rfl
    _ = (p.spriteOam e).besideSpriteFetch := rfl
    _ = p.besideSpriteFetch := rfl

theorem Ppu.spriteFetched_spriteState : (p.spriteFetched e).spriteState = .idle := rfl

theorem Ppu.spriteFetched_sTile : (p.spriteFetched e).sTile = e.oamScanRead p (4 * p.curSprite.index + 2) := rfl

theorem Ppu.spriteFetched_sAttr : (p.spriteFetched e).sAttr = e.oamScanRead p (4 * p.curSprite.index + 3) := rfl

theorem Ppu.spriteFetched_sAddr : (p.spriteFetched e).sAddr =
    16 * (if p.spriteHeight = 16 then (p.spriteFetched e).sTile.toNat / 2 * 2 else (p.spriteFetched e).sTile.toNat) +
    2 * (if (p.spriteFetched e).sAttr.getLsbD 6 = true
      then p.spriteHeight - 1 - (p.ly + 272 - p.curSprite.y.toNat) % p.spriteHeight
      else (p.ly + 272 - p.curSprite.y.toNat) % p.spriteHeight) :=
  congrArg₂ (16 * · + 2 * ·) (p.spriteOam e).spriteTile_toNat (p.spriteOam e).spriteRow_eq

theorem Ppu.spriteFetched_sLow :
    (p.spriteFetched e).sLow = p.spriteData e (p.spriteFetched e).sAttr (p.spriteFetched e).sAddr := by
  rw [spriteData, ← Ppu.spriteBank_eq]
  rfl

theorem Ppu.spriteFetched_sHigh :
    (p.spriteFetched e).sHigh = p.spriteData e (p.spriteFetched e).sAttr ((p.spriteFetched e).sAddr + 1) := by
  rw [spriteData, ← Ppu.spriteBank_eq]
  rfl

/-- Pixel `k` of the sprite FIFO: the sprite's pixels from the first on the screen are merged in (R245). -/
theorem Ppu.spriteFetched_spFifo (k : Nat) : (p.spriteFetched e).spFifo[k]? =
    if 8 ≤ k + spriteSkip p.curSprite.x then p.spFifo[k]?
    else some (p.spFifo[k]?.elim ((p.spriteFetched e).spritePixel e.cfg.hwMode (k + spriteSkip p.curSprite.x)) fun c =>
      if replaces e.cfg.hwMode ((p.spriteFetched e).spritePixel e.cfg.hwMode (k + spriteSkip p.curSprite.x)) c = true
      then (p.spriteFetched e).spritePixel e.cfg.hwMode (k + spriteSkip p.curSprite.x) else c) := by
  have hrow := getElem?_drop_range_map ((p.spriteFetched e).spritePixel e.cfg.hwMode) (spriteSkip p.curSprite.x) k
  split
  · next h => exact mergePixels_getElem?_of_none _ _ (hrow.trans (if_pos h))
  · next h => exact mergePixels_getElem?_of_some _ _ (hrow.trans (if_neg h))

end

/-! The dots of a sprite fetch (R225, R242). -/

/-- Dots leave the PPU's surroundings and the LCD's enable alone. -/
theorem repeatN_tickPpu_frame (n : Nat) (s : State) : (repeatN n tickPpu s).ppuEnv = s.ppuEnv ∧
    (repeatN n tickPpu s).ppu.lcdEnabled = s.ppu.lcdEnabled := by
  have henv (t : State) : (tickPpu t).ppuEnv = t.ppuEnv := by simp only [State.ppuEnv, tickPpu_frame t]
  have hlcd (t : State) : (tickPpu t).ppu.lcdEnabled = t.ppu.lcdEnabled :=
    congrArg (fun r => r.1.getLsbD 7) (tickPpu_programmed t)
  exact ⟨repeatN_field henv n s, repeatN_field (g := fun t : State => t.ppu.lcdEnabled) hlcd n s⟩

/-- A sprite fetch keeps the screen position and the mode. -/
theorem Ppu.spriteFetch_frame (e : PpuEnv) (n : Nat) (p : Ppu) :
    (repeatN n (Ppu.spriteFetchStep e) p.spriteTrigger).lx = p.lx ∧
    (repeatN n (Ppu.spriteFetchStep e) p.spriteTrigger).mode = p.mode :=
  ⟨(repeatN_field (fun _ => (Ppu.spriteFetchStep_frame e).2.1) n _).trans Ppu.spriteTrigger_frame.2.1,
    (repeatN_field (fun _ => (Ppu.spriteFetchStep_frame e).2.2.1) n _).trans Ppu.spriteTrigger_frame.2.2.1⟩

section

variable {s : State} (he : s.ppu.lcdEnabled = true) (hm : s.ppu.mode = .pixelTransfer)

include he hm

/-- A dot of a sprite fetch inside a line is the fetcher's step, and counts. -/
theorem tickPpu_fetching (hl : s.ppu.lineTicks < 455) (hx : s.ppu.lx < 160)
    (hs : s.ppu.spriteTrigger.spriteState ≠ .idle) :
    ∃ b, (tickPpu s).ppu =
      { s.ppu.spriteTrigger.spriteFetchStep s.ppuEnv with lineTicks := s.ppu.lineTicks + 1, statLine := b } := by
  obtain ⟨b, hb⟩ := tickPpu_ppu_of_inside he hl
  have hstep : s.ppu.pipelineStep s.ppuEnv = s.ppu.spriteTrigger.spriteFetchStep s.ppuEnv := by
    simp [Ppu.pipelineStep, hs]
  have hne : (s.ppu.pipelineStep s.ppuEnv).lx ≠ 160 := by
    simpa [hstep] using Nat.ne_of_lt hx
  refine ⟨b, ?_⟩
  rw [hb, Ppu.dot_of_pixelTransfer _ hm, if_neg hne, hstep]

/-- `n + 1` dots into a fetch the PPU is what as many steps of the fetcher make of the PPU with the sprite taken. -/
theorem repeatN_tickPpu_fetching (hx : s.ppu.lx < 160) (hs : s.ppu.spriteTrigger.spriteState = .oamSleep) {n : Nat}
    (hn : n < 6) (hl : s.ppu.lineTicks + n < 455) :
    ∃ b, (repeatN (n + 1) tickPpu s).ppu =
      { repeatN (n + 1) (Ppu.spriteFetchStep s.ppuEnv) s.ppu.spriteTrigger with
        lineTicks := s.ppu.lineTicks + (n + 1), statLine := b } := by
  induction n with
  | zero => exact tickPpu_fetching he hm hl hx (by simp [hs])
  | succ n ih =>
    obtain ⟨b, hb⟩ := ih (by omega) (by omega)
    obtain ⟨henv, hlcd⟩ := repeatN_tickPpu_frame (n + 1) s
    obtain ⟨hlx, hmode⟩ := s.ppu.spriteFetch_frame s.ppuEnv (n + 1)
    have hbusy := Ppu.spriteFetch_busy s.ppuEnv hs hn
    rw [repeatN_add (n + 1) 1 tickPpu, repeatN_add (n + 1) 1 (Ppu.spriteFetchStep _)]
    generalize repeatN (n + 1) tickPpu s = u at *
    generalize repeatN (n + 1) (Ppu.spriteFetchStep s.ppuEnv) s.ppu.spriteTrigger = q at *
    have htrigger : u.ppu.spriteTrigger = u.ppu := Ppu.spriteTrigger_of_busy (by rwa [hb])
    obtain ⟨b', hb'⟩ := tickPpu_fetching (hlcd.trans he) (by rw [hb]; exact hmode.trans hm) (by rw [hb]; exact hl)
      (by rw [hb]; exact hlx.trans_lt hx) (by rwa [htrigger, hb])
    rw [htrigger, henv, hb, Ppu.spriteFetchStep_line] at hb'
    exact ⟨b', hb'⟩

/-- A waiting sprite is fetched in six dots, and after each of the first five its fetch is still under way. -/
theorem repeatN_tickPpu_of_waiting {r : Sprite} {q : List Sprite} (hx : s.ppu.lx < 160) (hl : s.ppu.lineTicks < 449)
    (hsp : s.ppu.lcdc.getLsbD 1 = true) (hi : s.ppu.spriteState = .idle)
    (hq : queueAt s.ppu.spritesAt s.ppu.lx = r :: q) :
    (∃ b, (repeatN 6 tickPpu s).ppu = { (s.ppu.takeSprite r q).spriteFetched s.ppuEnv with
      lineTicks := s.ppu.lineTicks + 6, statLine := b }) ∧
    ∀ n < 5, (repeatN (n + 1) tickPpu s).ppu.spriteState ≠ .idle := by
  have htrigger := Ppu.spriteTrigger_of_waiting hsp hi hq
  have hstart : s.ppu.spriteTrigger.spriteState = .oamSleep := by rw [htrigger]; rfl
  have hdots {n : Nat} (hn : n < 6) := repeatN_tickPpu_fetching he hm hx hstart hn (by omega)
  refine ⟨?_, fun n hn => ?_⟩
  · rw [← htrigger, ← Ppu.spriteFetch_eq _ hstart]
    exact hdots (n := 5) (by decide)
  · obtain ⟨b, hu⟩ := hdots (n := n) (by omega)
    rw [hu]
    exact Ppu.spriteFetch_busy _ hstart (by omega)

end

/-- Settles O32: the six dots are the three reads of the fetch on the PPU with the sprite taken, which reach no part of the
tile fetcher and of the pixel output but the sprite FIFO. -/
theorem spriteFetchTakesSixDots : Obligations.SpriteFetchTakesSixDots := by
  unfold Obligations.SpriteFetchTakesSixDots
  intro s r q h he hsp hm hi hq hl
  obtain ⟨⟨b, ht⟩, hbusy⟩ := repeatN_tickPpu_of_waiting he hm (h.transfer hm) hl hsp hi hq
  have hbeside := (s.ppu.takeSprite r q).spriteFetched_besideSpriteFetch s.ppuEnv
  have hidle := (s.ppu.takeSprite r q).spriteFetched_spriteState s.ppuEnv
  have htile := (s.ppu.takeSprite r q).spriteFetched_sTile s.ppuEnv
  have hattr := (s.ppu.takeSprite r q).spriteFetched_sAttr s.ppuEnv
  have haddr := (s.ppu.takeSprite r q).spriteFetched_sAddr s.ppuEnv
  have hlow := (s.ppu.takeSprite r q).spriteFetched_sLow s.ppuEnv
  have hhigh := (s.ppu.takeSprite r q).spriteFetched_sHigh s.ppuEnv
  have hpixels := (s.ppu.takeSprite r q).spriteFetched_spFifo s.ppuEnv
  generalize (s.ppu.takeSprite r q).spriteFetched s.ppuEnv = F at *
  simp only [Ppu.besideSpriteFetch, Ppu.fetcher, Prod.mk.injEq] at hbeside
  obtain ⟨hcur, hqueues, hmode, hlx, hbg, hfb, -, -, -, hstate, hfx, -⟩ := hbeside
  refine ⟨_, execAll_tickPpu 6 s, ?_⟩
  rw [ht]
  refine ⟨hidle, hcur, ?queue, hlx, hmode.trans hm, hbg, hfb, hstate, hfx, rfl,
    fun n hn => ⟨_, execAll_tickPpu (n + 1) s, hbusy n hn, ?sprite⟩⟩
  case queue =>
    show queueAt F.spritesAt _ = q
    rw [hqueues]
    exact (queueAt_setQueue _ _ _ h.spritesAt).trans (if_pos rfl)
  case sprite =>
    intro byte tile attr height line row addr data pixel
    replace htile : F.sTile = tile := htile
    replace hattr : F.sAttr = attr := hattr
    rw [htile, hattr] at haddr
    replace haddr : F.sAddr = addr := haddr
    rw [hattr, haddr] at hlow hhigh
    replace hlow : F.sLow = data addr := hlow
    replace hhigh : F.sHigh = data (addr + 1) := hhigh
    have hpixel (j : Nat) : F.spritePixel s.cfg.hwMode j = pixel j := by
      rw [Ppu.spritePixel_eq, hlow, hhigh, hattr, hcur]
      rfl
    refine ⟨htile, hattr, haddr, hlow, hhigh, fun k => (hpixels k).trans (if_congr Iff.rfl rfl ?_)⟩
    rw [show s.ppuEnv.cfg = s.cfg from rfl, show (s.ppu.takeSprite r q).spFifo = s.ppu.spFifo from rfl, hpixel]
    cases s.ppu.spFifo[k]? with
    | none => rfl
    | some c => exact congrArg some (if_congr (replaces_iff _ _ _) rfl rfl)

end Sys2Proof.Machine

namespace Sys2Proof.Machine

/-! The window (R250). -/

section

variable {p : Ppu}

theorem Ppu.windowTriggers_iff (m : HwMode) : p.windowTriggers m = true ↔
    p.inWindow = false ∧ p.lcdc.getLsbD 5 = true ∧ (m = .cgb ∨ p.lcdc.getLsbD 0 = true) ∧ p.wy.toNat ≤ p.ly ∧
    p.wx.toNat ≤ p.lx + 7 := by
  simp [windowTriggers, windowEnabled, lcdcBit0, and_assoc]

/-- One condition that fails is enough. -/
theorem Ppu.not_windowTriggers {m : HwMode} (h : p.inWindow = true ∨ p.lcdc.getLsbD 5 = false ∨
    (m = .dmg ∧ p.lcdc.getLsbD 0 = false) ∨ p.ly < p.wy.toNat ∨ p.lx + 7 < p.wx.toNat) :
    ¬ p.windowTriggers m = true := by
  rw [Ppu.windowTriggers_iff]
  rintro ⟨hin, hon, hbit0, hy, hx⟩
  obtain h | h | ⟨rfl, h⟩ | h | h := h
  · exact absurd (h.symm.trans hin) (by decide)
  · exact absurd (hon.symm.trans h) (by decide)
  · exact absurd hbit0 (by rw [h]; decide)
  · omega
  · omega

theorem Ppu.windowCheck_of_not {m : HwMode} (h : ¬ p.windowTriggers m = true) : p.windowCheck m = p := if_neg h

theorem Ppu.windowCheck_of_triggers {m : HwMode} (h : p.windowTriggers m = true) : p.windowCheck m =
    { p with
      inWindow := true, windowDrawn := true, bgFifo := [], fetchState := .fetchTileSleep, fetchX := 0, discard := 0 } :=
  if_pos h

/-! The tile fetcher (R230 to R236). -/

/-- A step of the tile fetcher changes the background FIFO and the fetcher's own state. -/
theorem Ppu.fetcherStep_eq (e : PpuEnv) : p.fetcherStep e =
    { p with
      bgFifo := (p.fetcherStep e).bgFifo, fetchState := (p.fetcherStep e).fetchState, fetchX := (p.fetcherStep e).fetchX
      fTile := (p.fetcherStep e).fTile, fAttr := (p.fetcherStep e).fAttr, fAddr := (p.fetcherStep e).fAddr
      fLow := (p.fetcherStep e).fLow, fHigh := (p.fetcherStep e).fHigh } := by
  simp only [Ppu.fetcherStep, Ppu.push]
  repeat' split
  all_goals rfl

theorem Ppu.fetcherStep_window (e : PpuEnv) :
    (p.fetcherStep e).inWindow = p.inWindow ∧ (p.fetcherStep e).windowDrawn = p.windowDrawn := by
  rw [Ppu.fetcherStep_eq]
  exact ⟨rfl, rfl⟩

/-- Only a push into an empty FIFO changes it. -/
theorem Ppu.fetcherStep_bgFifo (e : PpuEnv) (h : p.fetchState ≠ .push ∨ p.bgFifo ≠ []) :
    (p.fetcherStep e).bgFifo = p.bgFifo := by
  cases hf : p.fetchState with
  | push =>
    obtain ⟨bg, rest, hq⟩ := List.exists_cons_of_ne_nil (h.resolve_left (absurd hf))
    simp [fetcherStep, push, hf, hq]
  | _ => simp [fetcherStep, fetchTile, fetchLow, fetchHigh, hf]

theorem Ppu.push_of_empty (h : p.bgFifo = []) : p.push =
    { p with
      bgFifo := p.backgroundPixel 0 :: [1, 2, 3, 4, 5, 6, 7].map p.backgroundPixel
      fetchX := (p.fetchX + 1) % 32, fetchState := .fetchTileSleep } := by
  simp only [push, h]
  rfl

theorem Ppu.push_of_waiting (h : p.bgFifo ≠ []) : p.push = p := by
  obtain ⟨bg, rest, hq⟩ := List.exists_cons_of_ne_nil h
  simp [push, hq]

/-- A tile's data over naturals: with LCDC bit 4 clear, tiles from 128 on lie where they do with it set (R232). -/
theorem Ppu.tileBase_eq : p.tileBase = if p.lcdc.getLsbD 4 = true ∨ 128 ≤ p.fTile.toNat then 16 * p.fTile.toNat
    else 0x1000 + 16 * p.fTile.toNat := by
  have ht := p.fTile.isLt
  cases hu : p.lcdc.getLsbD 4
  · simp only [tileBase, unsignedTiles, hu, BitVec.toInt_eq_toNat_cond, Bool.false_eq_true, false_or, if_false]
    split <;> split <;> omega
  · simp only [tileBase, unsignedTiles, hu]
    rfl

theorem Ppu.fetchTile_eq (e : PpuEnv) : p.fetchTile e =
    { p with
      fetchState := .fetchLowSleep, fTile := e.vram p 0 p.mapOffset
      fAttr := if e.cfg.hwMode = .cgb then e.vram p 1 p.mapOffset else 0x00#8 } := by
  cases hm : e.cfg.hwMode <;> simp [fetchTile, hm]

/-- A byte of the tile's data, in the bank and flipped as bits 3 and 5 of `fAttr` ask for (R232, R233). -/
def Ppu.tileData (e : PpuEnv) (p : Ppu) (i : Nat) : Byte :=
  flipIf p.fAttr (e.vram p (if p.fAttr.getLsbD 3 = true then 1 else 0) i)

theorem Ppu.fetchLow_eq (e : PpuEnv) : p.fetchLow e =
    { p with
      fetchState := .fetchHighSleep, fAddr := p.tileBase + 2 * p.tileRow
      fLow := p.tileData e (p.tileBase + 2 * p.tileRow) } := by
  rw [tileData, ← attrBank_eq]
  rfl

theorem Ppu.fetchHigh_eq (e : PpuEnv) : p.fetchHigh e =
    { p with
      fetchState := if e.cfg.pushSleep = true then .pushSleep else .push, fHigh := p.tileData e (p.fAddr + 1) } := by
  rw [tileData, ← attrBank_eq]
  rfl

/-! Pixel output (R260, R263). -/

theorem Ppu.pixelOutStep_of_empty (e : PpuEnv) (h : p.bgFifo = []) : p.pixelOutStep e = p := by
  simp [pixelOutStep, h]

/-- Pixel output leaves the tile fetcher and the window alone. -/
theorem Ppu.pixelOutStep_fetcher (e : PpuEnv) : (p.pixelOutStep e).fetcher = p.fetcher ∧
    (p.pixelOutStep e).inWindow = p.inWindow ∧ (p.pixelOutStep e).windowDrawn = p.windowDrawn := by
  simp only [pixelOutStep]
  repeat' split
  all_goals exact ⟨rfl, rfl, rfl⟩

/-- The pixel that is first after the fetcher's step is dropped or put out, and what is shown does not depend on that
step. -/
theorem Ppu.pixelOutStep_fetched (e : PpuEnv) {bg : Pixel} {rest : List Pixel} (h : (p.fetcherStep e).bgFifo = bg :: rest) :
    Ppu.pixelOutStep e (p.fetcherStep e) =
      if 0 < p.discard then { p.fetcherStep e with bgFifo := rest, discard := p.discard - 1 }
      else
        { p.fetcherStep e with
          bgFifo := rest, spFifo := p.spFifo.tail, lx := p.lx + 1
          fb := insert p.fb (fbCell p.ly p.lx) (p.colour e (p.mix e.cfg.hwMode bg p.spFifo.head?)) } := by
  rw [Ppu.fetcherStep_eq]
  simp only [pixelOutStep, h]
  split <;> rfl

end

/-! A pixel-transfer dot (R183, R225). -/

section

variable {s : State} (he : s.ppu.lcdEnabled = true) (hm : s.ppu.mode = .pixelTransfer)

include he hm

/-- The parts of the pipeline's step that the end of a line leaves alone. -/
theorem tickPpu_pipeline (h : PpuInv s.ppu) :
    (tickPpu s).ppu.bgFifo = (s.ppu.pipelineStep s.ppuEnv).bgFifo ∧
    (tickPpu s).ppu.spFifo = (s.ppu.pipelineStep s.ppuEnv).spFifo ∧
    (tickPpu s).ppu.fb = (s.ppu.pipelineStep s.ppuEnv).fb ∧ (tickPpu s).ppu.lx = (s.ppu.pipelineStep s.ppuEnv).lx ∧
    (tickPpu s).ppu.discard = (s.ppu.pipelineStep s.ppuEnv).discard ∧
    (tickPpu s).ppu.inWindow = (s.ppu.pipelineStep s.ppuEnv).inWindow ∧
    (tickPpu s).ppu.fetcher = (s.ppu.pipelineStep s.ppuEnv).fetcher := by
  by_cases hl : s.ppu.lineTicks = 455
  · obtain ⟨b, hb⟩ := tickPpu_ppu_of_end h he hl
    rw [hb, Ppu.dot_of_pixelTransfer _ hm]
    split <;> split <;> exact ⟨rfl, rfl, rfl, rfl, rfl, rfl, rfl⟩
  · have hlt := h.lineTicks
    obtain ⟨b, hb⟩ := tickPpu_ppu_of_inside he (by omega)
    rw [hb, Ppu.dot_of_pixelTransfer _ hm]
    split <;> exact ⟨rfl, rfl, rfl, rfl, rfl, rfl, rfl⟩

theorem tickPpu_windowDrawn (hl : s.ppu.lineTicks < 455) :
    (tickPpu s).ppu.windowDrawn = (s.ppu.pipelineStep s.ppuEnv).windowDrawn := by
  obtain ⟨b, hb⟩ := tickPpu_ppu_of_inside he hl
  rw [hb, Ppu.dot_of_pixelTransfer _ hm]
  split <;> rfl

end

/-! A dot with no sprite to fetch (R225). -/

section

variable {s : State} (h : PpuInv s.ppu) (he : s.ppu.lcdEnabled = true) (hm : s.ppu.mode = .pixelTransfer)
  (hi : s.ppu.spriteState = .idle) (hn : s.ppu.lcdc.getLsbD 1 = false ∨ queueAt s.ppu.spritesAt s.ppu.lx = [])

include hi hn

theorem pipelineStep_of_noSprite : s.ppu.pipelineStep s.ppuEnv =
    Ppu.pixelOutStep s.ppuEnv (Ppu.fetcherStep s.ppuEnv (s.ppu.windowCheck s.cfg.hwMode)) := by
  have ht : s.ppu.spriteTrigger = s.ppu := by
    obtain hn | hn := hn
    · simp only [Ppu.spriteTrigger, Ppu.spritesEnabled, hn, Bool.and_false]
      rfl
    · simp [Ppu.spriteTrigger, hn]
  simp [Ppu.pipelineStep, ht, hi, State.ppuEnv]

theorem pipelineStep_of_noWindow (hw : ¬ s.ppu.windowTriggers s.cfg.hwMode = true) :
    s.ppu.pipelineStep s.ppuEnv = Ppu.pixelOutStep s.ppuEnv (s.ppu.fetcherStep s.ppuEnv) := by
  rw [pipelineStep_of_noSprite hi hn, Ppu.windowCheck_of_not hw]

include h he hm

/-- The dot on which the window triggers empties the FIFO and puts out no pixel (R250). -/
theorem tickPpu_window (hw : s.ppu.windowTriggers s.cfg.hwMode = true) :
    (tickPpu s).ppu.inWindow = true ∧ (s.ppu.lineTicks < 455 → (tickPpu s).ppu.windowDrawn = true) ∧
    (tickPpu s).ppu.bgFifo = [] ∧ (tickPpu s).ppu.discard = 0 ∧ (tickPpu s).ppu.lx = s.ppu.lx ∧
    (tickPpu s).ppu.fb = s.ppu.fb ∧ (tickPpu s).ppu.spFifo = s.ppu.spFifo ∧
    (tickPpu s).ppu.fetcher = Ppu.fetcher { s.ppu with fetchState := .fetchTile, fetchX := 0 } := by
  have hstep : s.ppu.pipelineStep s.ppuEnv = { s.ppu with
      inWindow := true, windowDrawn := true, bgFifo := [], fetchState := .fetchTile, fetchX := 0, discard := 0 } := by
    rw [pipelineStep_of_noSprite hi hn, Ppu.windowCheck_of_triggers hw]
    rfl
  have hdrawn := tickPpu_windowDrawn he hm
  obtain ⟨hbg, hsp, hfb, hlx, hdis, hin, hfetch⟩ := tickPpu_pipeline he hm h
  rw [hstep] at hdrawn hbg hsp hfb hlx hdis hin hfetch
  exact ⟨hin, hdrawn, hbg, hdis, hlx, hfb, hsp, hfetch⟩

variable (hw : ¬ s.ppu.windowTriggers s.cfg.hwMode = true)

include hw

/-- On any other dot the tile fetcher makes its step, and the window stays as it is. -/
theorem tickPpu_fetcher : (tickPpu s).ppu.fetcher = (s.ppu.fetcherStep s.ppuEnv).fetcher ∧
    (tickPpu s).ppu.inWindow = s.ppu.inWindow ∧
    (s.ppu.lineTicks < 455 → (tickPpu s).ppu.windowDrawn = s.ppu.windowDrawn) := by
  have hdrawn := tickPpu_windowDrawn he hm
  obtain ⟨-, -, -, -, -, hin, hfetch⟩ := tickPpu_pipeline he hm h
  obtain ⟨hfetch', hin', hdrawn'⟩ := (s.ppu.fetcherStep s.ppuEnv).pixelOutStep_fetcher s.ppuEnv
  obtain ⟨hin'', hdrawn''⟩ := s.ppu.fetcherStep_window s.ppuEnv
  rw [pipelineStep_of_noWindow hi hn hw] at hdrawn hin hfetch
  exact ⟨hfetch.trans hfetch', hin.trans (hin'.trans hin''), fun hl => (hdrawn hl).trans (hdrawn'.trans hdrawn'')⟩

/-- With no pixel after the fetcher's step, none leaves. -/
theorem tickPpu_of_empty (hq : (s.ppu.fetcherStep s.ppuEnv).bgFifo = []) :
    (tickPpu s).ppu.bgFifo = [] ∧ (tickPpu s).ppu.lx = s.ppu.lx ∧ (tickPpu s).ppu.fb = s.ppu.fb := by
  obtain ⟨hbg, -, hfb, hlx, -, -, -⟩ := tickPpu_pipeline he hm h
  rw [pipelineStep_of_noWindow hi hn hw, Ppu.pixelOutStep_of_empty _ hq] at hbg hfb hlx
  rw [Ppu.fetcherStep_eq] at hfb hlx
  exact ⟨hbg.trans hq, hlx, hfb⟩

/-- The first pixel after the fetcher's step leaves: dropped, or shown at the screen position (R260, R263). -/
theorem tickPpu_of_pixel {bg : Pixel} {rest : List Pixel} (hq : (s.ppu.fetcherStep s.ppuEnv).bgFifo = bg :: rest) :
    (tickPpu s).ppu.bgFifo = rest ∧
    (0 < s.ppu.discard → (tickPpu s).ppu.discard = s.ppu.discard - 1 ∧ (tickPpu s).ppu.lx = s.ppu.lx ∧
      (tickPpu s).ppu.fb = s.ppu.fb ∧ (tickPpu s).ppu.spFifo = s.ppu.spFifo) ∧
    (s.ppu.discard = 0 → (tickPpu s).ppu.discard = 0 ∧ (tickPpu s).ppu.lx = s.ppu.lx + 1 ∧
      (tickPpu s).ppu.spFifo = s.ppu.spFifo.tail ∧
      (tickPpu s).ppu.fb = insert s.ppu.fb (fbCell s.ppu.ly s.ppu.lx)
        (s.ppu.colour s.ppuEnv (s.ppu.mix s.cfg.hwMode bg s.ppu.spFifo.head?))) := by
  have hstep := (pipelineStep_of_noWindow hi hn hw).trans (Ppu.pixelOutStep_fetched s.ppuEnv hq)
  obtain ⟨hbg, hsp, hfb, hlx, hdis, -, -⟩ := tickPpu_pipeline he hm h
  rw [Ppu.fetcherStep_eq] at hstep
  rw [hstep] at hbg hsp hfb hlx hdis
  by_cases hd : 0 < s.ppu.discard
  · rw [if_pos hd] at hbg hsp hfb hlx hdis
    exact ⟨hbg, fun _ => ⟨hdis, hlx, hfb, hsp⟩, fun h0 => by omega⟩
  · rw [if_neg hd] at hbg hsp hfb hlx hdis
    exact ⟨hbg, fun h0 => absurd h0 hd, fun h0 => ⟨hdis.trans h0, hlx, hsp, hfb⟩⟩

end

/-- Settles O29: with no sprite to fetch the dot is the window's check, the fetcher's step and the pixel's output; where the
window triggers the first decides it, and else the fetcher's step says whether there is a pixel to put out. -/
theorem pixelOutput : Obligations.PixelOutput := by
  unfold Obligations.PixelOutput
  refine ⟨fun s bg rest h he hm hi hn hw hq => ?waiting, fun s h he hm hi hn => ?_⟩
  case waiting =>
    have hkeep := s.ppu.fetcherStep_bgFifo s.ppuEnv (.inr (by rw [hq]; exact List.cons_ne_nil _ _))
    obtain ⟨hbg, hdrop, hshow⟩ := tickPpu_of_pixel h he hm hi hn (Ppu.not_windowTriggers hw) (hkeep.trans hq)
    refine ⟨_, rfl, hbg, hdrop, fun hd => ?_⟩
    obtain ⟨hdis, hlx, hsp, hfb⟩ := hshow hd
    rw [hfb]
    exact ⟨hdis, hlx, hsp, lookup_insert_same .., fun k hk => lookup_insert_ne _ _ hk⟩
  intro triggers map off line row addr data pixel fetcher
  refine ⟨tickPpu s, rfl, fun ht => ?window, fun ht => ?_⟩
  case window => exact tickPpu_window h he hm hi hn ((Ppu.windowTriggers_iff _).mpr ht)
  have hw : ¬ s.ppu.windowTriggers s.cfg.hwMode = true := fun hc => ht ((Ppu.windowTriggers_iff _).mp hc)
  obtain ⟨hfetch, hin, hdrawn⟩ := tickPpu_fetcher h he hm hi hn hw
  refine ⟨hin, hdrawn, fun hf => ?tileSleep, fun hf => ?tile, fun hf => ?lowSleep, fun hf => ?low, fun hf => ?highSleep,
    fun hf => ?high, fun hf => ?pushSleep, fun hf hq => ?pushWaits, fun hf hq => ?noPixel, fun hf hq => ?push⟩
  case tileSleep | lowSleep | highSleep | pushSleep =>
    simp only [Ppu.fetcherStep, hf] at hfetch
    exact hfetch
  case tile =>
    simp only [Ppu.fetcherStep, hf, Ppu.fetchTile_eq] at hfetch
    exact hfetch
  case low =>
    simp only [Ppu.fetcherStep, hf, Ppu.fetchLow_eq, Ppu.tileBase_eq] at hfetch
    exact hfetch
  case high =>
    simp only [Ppu.fetcherStep, hf, Ppu.fetchHigh_eq] at hfetch
    exact hfetch
  case pushWaits =>
    simp only [Ppu.fetcherStep, hf, Ppu.push_of_waiting hq] at hfetch
    exact hfetch
  case noPixel => exact tickPpu_of_empty h he hm hi hn hw ((s.ppu.fetcherStep_bgFifo _ (.inl hf)).trans hq)
  case push =>
    have hpush : s.ppu.fetcherStep s.ppuEnv = s.ppu.push := by simp only [Ppu.fetcherStep, hf]
    rw [Ppu.push_of_empty hq] at hpush
    obtain ⟨hbg, hdrop, hshow⟩ := tickPpu_of_pixel h he hm hi hn hw (congrArg Ppu.bgFifo hpush)
    rw [hpush] at hfetch
    refine ⟨hfetch, hbg, fun hd => ?_, fun hd => ?_⟩
    · obtain ⟨-, hlx, hfb, -⟩ := hdrop hd
      exact ⟨hlx, hfb⟩
    · obtain ⟨-, hlx, -, hfb⟩ := hshow hd
      exact ⟨hlx, by rw [hfb]; exact lookup_insert_same ..⟩

end Sys2Proof.Machine

namespace Sys2Proof.Machine

/-! The OAM DMA register, and the source segment the engine holds (R281 to R283). -/

/-- The source is the first address of the page, remapped from 0xF0 on (R281). -/
theorem dmaSourceOf_toNat (v : Byte) :
    (dmaSourceOf v).toNat = 256 * (if 0xF0 ≤ v.toNat then v.toNat - 0x20 else v.toNat) := by
  have hv := v.isLt
  have hpage (x : Byte) : (x ++ 0#8 : Addr).toNat = 256 * x.toNat := by
    rw [BitVec.toNat_append, ← Nat.shiftLeft_add_eq_or_of_lt (by decide), Nat.shiftLeft_eq, Nat.mul_comm]
    rfl
  rw [dmaSourceOf, hpage]
  split
  · have hle : 0x20#8 ≤ v := BitVec.le_def.mpr (show 0x20 ≤ v.toNat by omega)
    rw [BitVec.toNat_sub_of_le hle]
    rfl
  · rfl

/-- Giving the source segment back, where it is no other than GENERAL (R286, R287). -/
theorem releaseSource_eq {s : State} (h : s.dma.srcSeg ≠ some .oam) :
    releaseSource s = (s.setDma { s.dma with srcSeg := none }).setBus { s.bus with
      blockedGeneral := if s.dma.srcSeg = some .general then false else s.bus.blockedGeneral } := by
  cases hs : s.dma.srcSeg with
  | none =>
    have hd : { s.dma with srcSeg := none } = s.dma := by rw [← hs]
    rw [releaseSource, hs, hd]
    rfl
  | some g =>
    cases g with
    | oam => exact absurd hs h
    | general => rw [releaseSource, hs]; rfl

/-- A write of the register starts a transfer, gives a held source segment back and blocks OAM (R282). -/
theorem writeDma_eq (v : Byte) (s : State) :
    writeDma v s = (s.setDma (s.dma.start v)).setBus { s.bus with
      blockedOam := true
      blockedGeneral := if s.dma.active = true ∧ s.dma.srcSeg = some .general then false else s.bus.blockedGeneral } := by
  cases ha : s.dma.active with
  | false => rw [writeDma, ha]; rfl
  | true =>
    cases hs : s.dma.srcSeg with
    | none => rw [writeDma, releaseSource, ha, hs]; rfl
    | some g => cases g <;> rw [writeDma, releaseSource, ha, hs] <;> rfl

/-- Settles O33: the access reaches the register, which starts the engine on the page written. -/
theorem dmaReadAndWrite : Obligations.DmaReadAndWrite := by
  unfold Obligations.DmaReadAndWrite
  intro s hb v hr
  refine ⟨exec_rd_reached hr, writeDma v s, exec_wr_reached v hr, ?_⟩
  rw [writeDma_eq]
  exact ⟨rfl, dmaSourceOf_toNat v, rfl, rfl⟩

/-! A tick of the OAM DMA engine, by its place in the transfer (R284, R290). -/

theorem tickDma_of_inactive {s : State} (ha : s.dma.active = false) : tickDma s = s := by
  simp [tickDma, ha]

/-- Before the last tick the engine does the tick's work and counts it. -/
theorem tickDma_of_work {s : State} (ha : s.dma.active = true) (hc : s.dma.cycle < 643) {t : State}
    (hw : dmaWork s.dma.cycle s = t) : tickDma s = t.setDma { t.dma with cycle := s.dma.cycle + 1 } := by
  have hlast : s.dma.cycle + 1 ≠ dmaLength := by rw [dmaLength]; omega
  simp [tickDma, ha, hlast, hw]

/-- A tick that neither reads nor writes. -/
theorem dmaWork_of_idle {s : State} {c : Nat} (hw : c % 4 = 0 → c = 0) (hr : c % 4 = 1 → 640 ≤ c) : dmaWork c s = s := by
  have h1 : ¬ (c % 4 = 0 ∧ 1 ≤ c / 4) := by omega
  have h2 : ¬ (c % 4 = 1 ∧ c / 4 ≤ 159) := by omega
  simp [dmaWork, ← Bool.decide_and, h1, h2]

theorem dmaWork_of_read {s : State} {c : Nat} (h : c % 4 = 1) (hc : c < 640) : dmaWork c s = dmaReadStep (c / 4) s := by
  have h1 : c / 4 ≤ 159 := by omega
  simp [dmaWork, h, h1]

theorem dmaWork_of_write {s : State} {c : Nat} (h : c % 4 = 0) (hc : 0 < c) : dmaWork c s = dmaWriteStep (c / 4) s := by
  have h1 : 1 ≤ c / 4 := by omega
  simp [dmaWork, h, h1]

theorem tickDma_of_idle {s : State} (ha : s.dma.active = true) (hc : s.dma.cycle < 643)
    (hw : s.dma.cycle % 4 = 0 → s.dma.cycle = 0) (hr : s.dma.cycle % 4 = 1 → 640 ≤ s.dma.cycle) :
    tickDma s = s.setDma { s.dma with cycle := s.dma.cycle + 1 } :=
  tickDma_of_work ha hc (dmaWork_of_idle hw hr)

/-! What the engine's accesses do (R285, R286). -/

/-- What a transfer changes of the machine: OAM, the engine, and the dispatcher's flags. -/
def State.withTransfer (s : State) (m : Memory) (d : Dma) (b : Bus) : State :=
  ((s.setPpu { s.ppu with oam := m }).setDma d).setBus b

/-- Only OAM and the register itself show it. -/
theorem readPlace_withTransfer {s : State} {p : Place} {m : Memory} {d : Dma} (ho : p = .oam → m = s.ppu.oam)
    (hd : p = .dma → d.reg = s.dma.reg) (b : Bus) (off : Nat) (a : Addr) (hb : Bool) :
    readPlace p off a hb (s.withTransfer m d b) = readPlace p off a hb s := by
  cases p
  case oam => rw [ho rfl]; rfl
  case dma => exact hd rfl
  all_goals rfl

theorem routeOwner_ne_blocked (s : State) (a : Addr) (g : Segment) : routeOwner s a ≠ .blocked g := by
  simp only [routeOwner]
  split
  · simp
  · split <;> simp

/-- A read of the engine that is delivered to neither returns what it returns without the transfer. -/
theorem busRead_withTransfer {s : State} {m : Memory} {d : Dma} {b : Bus} (hb : b.registered = s.bus.registered) {a : Addr}
    (h : ∀ p off, routeOwner s a = .deliver p off → (p = .oam → m = s.ppu.oam) ∧ (p = .dma → d.reg = s.dma.reg)) :
    (busRead a false (s.withTransfer m d b)).1 = (busRead a false s).1 := by
  have hr : route (s.withTransfer m d b) a false = route s a false := by
    have ho : ownerOf (s.withTransfer m d b) a = ownerOf s a := by
      rw [ownerOf, ownerOf, ← hb]
      rfl
    rw [route_unblocked, route_unblocked, routeOwner, routeOwner, ho]
    rfl
  cases hs : route s a false with
  | blocked g => exact absurd ((route_unblocked s a).symm.trans hs) (routeOwner_ne_blocked s a g)
  | unmapped => rw [busRead_unmapped (hr.trans hs), busRead_unmapped hs]; rfl
  | unclaimed k => exact absurd hs (route_ne_unclaimed s a false k)
  | deliver p off =>
    obtain ⟨ho, hd⟩ := h p off (route_deliver hs)
    rw [busRead_deliver (hr.trans hs), busRead_deliver hs, readPlace_withTransfer ho hd]

/-- The first read takes the segment of the source's base address, if that is GENERAL (R285). -/
theorem dmaTakeSource_eq (s : State) : dmaTakeSource s =
    s.withTransfer s.ppu.oam
      { s.dma with srcSeg := if s.cfg.segmentOf s.dma.source = some .general then some .general else s.dma.srcSeg }
      { s.bus with
        blockedGeneral := if s.cfg.segmentOf s.dma.source = some .general then true else s.bus.blockedGeneral } := by
  cases hg : s.cfg.segmentOf s.dma.source with
  | none => rw [dmaTakeSource, hg]; rfl
  | some g => cases g <;> rw [dmaTakeSource, hg] <;> rfl

/-- The byte the engine reads next. -/
def State.dmaByte (s : State) : Byte := (busRead (s.dma.source + BitVec.ofNat 16 s.dma.readIdx) false s).1

/-- The read of a group: the byte is pending, and the first read takes the source's segment (R285). -/
theorem dmaReadStep_eq (g : Nat) (s : State) : dmaReadStep g s =
    s.withTransfer s.ppu.oam
      { s.dma with
        pending := s.dmaByte
        readIdx := s.dma.readIdx + 1
        srcSeg := if g = 0 ∧ s.cfg.segmentOf s.dma.source = some .general then some .general else s.dma.srcSeg }
      { s.bus with
        lastDmaByte := s.dmaByte
        blockedGeneral :=
          if g = 0 ∧ s.cfg.segmentOf s.dma.source = some .general then true else s.bus.blockedGeneral } := by
  by_cases hg : g = 0
  · have hread := busRead_withTransfer (s := s) (m := s.ppu.oam) (a := s.dma.source + BitVec.ofNat 16 s.dma.readIdx)
      (d := { s.dma with srcSeg := if s.cfg.segmentOf s.dma.source = some .general then some .general else s.dma.srcSeg })
      (b := { s.bus with
        blockedGeneral := if s.cfg.segmentOf s.dma.source = some .general then true else s.bus.blockedGeneral })
      rfl (fun p off _ => ⟨fun _ => rfl, fun _ => rfl⟩)
    simp only [dmaReadStep, busRead_snd, dmaTakeSource_eq, hg, true_and]
    rw [State.dmaByte, ← hread]
    rfl
  · simp only [dmaReadStep, busRead_snd, hg, if_false, false_and]
    rfl

/-- The write of a group, before it gives the source segment back: one write of the bus (R286). -/
def State.dmaWritten (s : State) : State :=
  busWrite (s.cfg.base .oam + BitVec.ofNat 16 s.dma.writeIdx) s.dma.pending false s

theorem dmaWriteStep_of_inside {g : Nat} (hg : g ≠ 160) (s : State) : dmaWriteStep g s =
    s.dmaWritten.setDma { s.dmaWritten.dma with writeIdx := s.dmaWritten.dma.writeIdx + 1 } := by
  rw [dmaWriteStep, if_neg hg]
  rfl

/-- A write leaves the engine no segment but GENERAL, also where it reaches the register and restarts the engine. -/
theorem dmaWritten_srcSeg {s : State} (h : s.dma.srcSeg ≠ some .oam) : s.dmaWritten.dma.srcSeg ≠ some .oam := by
  obtain hd | hd : s.dmaWritten.dma = s.dma ∨ s.dmaWritten.dma = s.dma.start s.dma.pending := busWrite_dma ..
  · rw [hd]
    exact h
  · rw [hd]
    exact nofun

/-- The write of the last group gives the source segment back. -/
theorem dmaWriteStep_last {s : State} (h : s.dma.srcSeg ≠ some .oam) : dmaWriteStep 160 s =
    (s.dmaWritten.setDma { s.dmaWritten.dma with
      writeIdx := s.dmaWritten.dma.writeIdx + 1, srcSeg := none }).setBus { s.dmaWritten.bus with
        blockedGeneral := if s.dmaWritten.dma.srcSeg = some .general then false else s.dmaWritten.bus.blockedGeneral } :=
  releaseSource_eq (s := s.dmaWritten.setDma { s.dmaWritten.dma with writeIdx := s.dmaWritten.dma.writeIdx + 1 })
    (dmaWritten_srcSeg h)

/-! The ticks that access the bus, and the last one. -/

theorem tickDma_of_read {s : State} (ha : s.dma.active = true) (h : s.dma.cycle % 4 = 1) (hc : s.dma.cycle < 640) :
    tickDma s = s.withTransfer s.ppu.oam
      { s.dma with
        cycle := s.dma.cycle + 1
        pending := s.dmaByte
        readIdx := s.dma.readIdx + 1
        srcSeg := if s.dma.cycle = 1 ∧ s.cfg.segmentOf s.dma.source = some .general then some .general
          else s.dma.srcSeg }
      { s.bus with
        lastDmaByte := s.dmaByte
        blockedGeneral := if s.dma.cycle = 1 ∧ s.cfg.segmentOf s.dma.source = some .general then true
          else s.bus.blockedGeneral } := by
  have hg : s.dma.cycle / 4 = 0 ↔ s.dma.cycle = 1 := by omega
  rw [tickDma_of_work ha (by omega) ((dmaWork_of_read h hc).trans (dmaReadStep_eq _ s))]
  simp only [hg]
  rfl

theorem tickDma_of_write {s : State} (ha : s.dma.active = true) (h : s.dma.cycle % 4 = 0) (h0 : 0 < s.dma.cycle)
    (hc : s.dma.cycle < 640) :
    tickDma s = s.dmaWritten.setDma { s.dmaWritten.dma with
      cycle := s.dma.cycle + 1, writeIdx := s.dmaWritten.dma.writeIdx + 1 } :=
  tickDma_of_work ha (by omega) ((dmaWork_of_write h h0).trans (dmaWriteStep_of_inside (by omega) s))

theorem tickDma_of_lastWrite {s : State} (ha : s.dma.active = true) (hc : s.dma.cycle = 640)
    (h : s.dma.srcSeg ≠ some .oam) :
    tickDma s = (s.dmaWritten.setDma { s.dmaWritten.dma with
      cycle := 641, writeIdx := s.dmaWritten.dma.writeIdx + 1, srcSeg := none }).setBus { s.dmaWritten.bus with
        blockedGeneral := if s.dmaWritten.dma.srcSeg = some .general then false
          else s.dmaWritten.bus.blockedGeneral } := by
  have hw : dmaWork s.dma.cycle s = dmaWriteStep 160 s := by rw [dmaWork_of_write (by omega) (by omega), hc]
  rw [tickDma_of_work ha (by omega) (hw.trans (dmaWriteStep_last h)), hc]
  rfl

/-- The 644th tick ends the transfer (R287). -/
theorem tickDma_of_end {s : State} (ha : s.dma.active = true) (hc : s.dma.cycle = 643) (h : s.dma.srcSeg ≠ some .oam) :
    tickDma s = (s.setDma { s.dma with active := false, cycle := 0, srcSeg := none }).setBus { s.bus with
      blockedOam := false
      blockedGeneral := if s.dma.srcSeg = some .general then false else s.bus.blockedGeneral } := by
  have hw : dmaWork 643 s = s := dmaWork_of_idle (by decide) (by decide)
  have ht : tickDma s = dmaEndStep (s.setDma { s.dma with cycle := 644 }) := by simp [tickDma, ha, hc, hw, dmaLength]
  exact ht.trans
    (releaseSource_eq (s := (s.setDma { s.dma with active := false, cycle := 0 }).setBlocked .oam false) h)

/-- Settles O34: a tick is its work, read or write by the cycle's place in its group of four, and the count. -/
theorem tickDmaSchedule : Obligations.TickDmaSchedule := by
  unfold Obligations.TickDmaSchedule
  intro s
  have hx {t : State} (h : tickDma s = t) : exec .tickDma s = .next t := congrArg Host.Outcome.next h
  refine ⟨fun ha => hx (tickDma_of_inactive ha), fun ha h4 h1 hc => ?idle, fun ha hc => ?first, fun ha h hc => ?read,
    fun ha h h0 hc => ?write, fun ha hc hs => ?lastWrite, fun ha hc hs => hx (tickDma_of_end ha hc hs)⟩
  case idle => exact hx (tickDma_of_idle ha hc (by omega) (by omega))
  case first =>
    have ht := tickDma_of_idle ha (by omega) (fun _ => hc) (by omega)
    rw [hc] at ht
    exact hx ht
  case read => exact ⟨_, s.dmaByte, hx (tickDma_of_read ha h hc), exec_rd .., rfl⟩
  case write => exact ⟨_, s.dmaWritten, hx (tickDma_of_write ha h h0 hc), rfl, rfl⟩
  case lastWrite => exact ⟨_, s.dmaWritten, hx (tickDma_of_lastWrite ha hc hs), rfl, rfl⟩

/-! A whole transfer in the default map (R280, R287). -/

/-- The engine's write of byte `k` of OAM, whatever else is registered. -/
theorem busWrite_oam {s : State} (hm : s.cfg.baseOverride = []) (hr : HandlerId.ppu ∈ s.bus.registered) {k : Nat}
    (hk : k < 160) (v : Byte) :
    busWrite (s.cfg.base .oam + BitVec.ofNat 16 k) v false s = s.setPpu (s.ppu.writeOam k v) := by
  have hroute : route s (s.cfg.base .oam + BitVec.ofNat 16 k) false = .deliver .oam k := by
    rw [route_unblocked, base_default hm]
    exact routeOwner_placeAddr (p := .oam) hm rfl hr hk
  have hfree : ¬ s.ppu.oamLocked s.cfg false = true := by simp [Ppu.oamLocked_iff]
  rw [busWrite_deliver hroute, writePlace, if_neg hfree]

/-- Every source of a transfer lies in GENERAL (R88, R281). -/
theorem segmentOf_general {c : Config} (hc : c.segments = Config.default.segments) {a : Addr} (ha : a.toNat < 0xFE00) :
    c.segmentOf a = some .general := by
  have h1 : ¬ 0xFE00 ≤ a.toNat := by omega
  have h2 : a.toNat ≤ 0xFDFF := by omega
  simp [Config.segmentOf, hc, Config.default, h1, h2]

/-- Below OAM stands neither OAM nor the DMA register. -/
theorem routeOwner_below_oam {s : State} (hm : s.cfg.baseOverride = []) {a : Addr} (ha : a.toNat < 0xFE00) {p : Place}
    {off : Nat} (hr : routeOwner s a = .deliver p off) : p ≠ .oam ∧ p ≠ .dma := by
  obtain ⟨_, _, _, _, hle, _⟩ := routeOwner_deliver hr
  rw [base_default hm] at hle
  constructor
  · rintro rfl
    exact absurd (Nat.lt_of_le_of_lt hle ha) (by decide)
  · rintro rfl
    exact absurd (Nat.lt_of_le_of_lt hle ha) (by decide)

/-- Byte `k` of the page at `src`, as the machine holds it before the transfer. -/
def State.pageByte (s : State) (src : Addr) (k : Nat) : Byte := (busRead (src + BitVec.ofNat 16 k) false s).1

/-- How the machine `t` stands after `c` ticks of a transfer of the page at `src` begun in `s` (R290). -/
structure Copying (s : State) (src : Addr) (c : Nat) (t : State) : Prop where
  frame : t = s.withTransfer t.ppu.oam t.dma t.bus
  registered : t.bus.registered = s.bus.registered
  blockedOam : t.bus.blockedOam = true
  active : t.dma.active = true
  cycle : t.dma.cycle = c
  source : t.dma.source = src
  readIdx : t.dma.readIdx = min 160 ((c + 2) / 4)
  writeIdx : t.dma.writeIdx = (c - 1) / 4
  pending : ∀ k, t.dma.readIdx = k + 1 → t.dma.pending = s.pageByte src k
  copied : ∀ k, k < t.dma.writeIdx → t.ppuEnv.oam t.ppu k = s.pageByte src k
  srcSeg : t.dma.srcSeg = if 2 ≤ c ∧ c ≤ 640 then some .general else none
  released : 641 ≤ c → t.bus.blockedGeneral = false

section
variable {s t : State} {src : Addr} {c : Nat}

theorem Copying.cfg (h : Copying s src c t) : t.cfg = s.cfg := by
  rw [h.frame]
  rfl

/-- What changes nothing but the transfer's part of `t` changes nothing else of `s`. -/
theorem Copying.frame_trans (h : Copying s src c t) {u : State} (hu : u = t.withTransfer u.ppu.oam u.dma u.bus) :
    u = s.withTransfer u.ppu.oam u.dma u.bus := by
  rw [h.frame] at hu
  exact hu

theorem Copying.srcSeg_ne_oam (h : Copying s src c t) : t.dma.srcSeg ≠ some .oam := by
  rw [h.srcSeg]
  split
  · decide
  · decide

/-- The write of the register begins a transfer. -/
theorem Copying.begin (v : Byte) (s : State) : Copying s (dmaSourceOf v) 0 (writeDma v s) := by
  rw [writeDma_eq]
  exact ⟨rfl, rfl, rfl, rfl, rfl, rfl, rfl, rfl, nofun, nofun, rfl, nofun⟩

/-- The source shows the engine the bytes it held before the transfer. -/
theorem Copying.dmaByte (hm : s.cfg.baseOverride = []) (hsrc : src.toNat + 160 ≤ 0xFE00) (h : Copying s src c t)
    (hk : t.dma.readIdx < 160) : t.dmaByte = s.pageByte src t.dma.readIdx := by
  have ha : (src + BitVec.ofNat 16 t.dma.readIdx).toNat < 0xFE00 := by
    rw [BitVec.toNat_add, BitVec.toNat_ofNat]
    omega
  have hread := busRead_withTransfer (s := s) (m := t.ppu.oam) (d := t.dma) (b := t.bus) h.registered fun p off hr =>
    have hp := routeOwner_below_oam hm ha hr
    ⟨fun ho => absurd ho hp.1, fun hd => absurd hd hp.2⟩
  rw [← h.frame] at hread
  rw [State.dmaByte, h.source]
  exact hread

/-- A tick that does no access only counts. -/
theorem Copying.tick_idle (h : Copying s src c t) (hc : c < 643) (hw : c % 4 = 0 → c = 0) (hr : c % 4 = 1 → 640 ≤ c) :
    Copying s src (c + 1) (tickDma t) := by
  have hframe := @h.frame_trans
  obtain ⟨-, hreg, hoam, ha, rfl, hsource, hread, hwrite, hpend, hcopied, hseg, hrel⟩ := h
  rw [tickDma_of_idle ha hc hw hr]
  have hheld : 2 ≤ t.dma.cycle ∧ t.dma.cycle ≤ 640 ↔ 2 ≤ t.dma.cycle + 1 ∧ t.dma.cycle + 1 ≤ 640 := by omega
  exact ⟨hframe rfl, hreg, hoam, ha, rfl, hsource, hread.trans (by omega), hwrite.trans (by omega), hpend, hcopied,
    hseg.trans (if_congr hheld rfl rfl), fun h => hrel (by omega)⟩

/-- A read makes the next byte of the page pending, and the first one takes GENERAL. -/
theorem Copying.tick_read (hmap : s.defaultMap) (hsrc : src.toNat + 160 ≤ 0xFE00) (h : Copying s src c t)
    (h1 : c % 4 = 1) (hc : c < 640) : Copying s src (c + 1) (tickDma t) := by
  have hframe := @h.frame_trans
  have hlt : t.dma.readIdx < 160 := by rw [h.readIdx]; omega
  have hbyte := h.dmaByte hmap.1 hsrc hlt
  have hgen : t.cfg.segmentOf t.dma.source = some .general := by
    rw [h.cfg, h.source]
    exact segmentOf_general hmap.2 (by omega)
  obtain ⟨-, hreg, hoam, ha, rfl, hsource, hread, hwrite, -, hcopied, hseg, -⟩ := h
  rw [tickDma_of_read ha h1 hc]
  refine ⟨hframe rfl, hreg, hoam, ha, rfl, hsource, (congrArg (· + 1) hread).trans (by omega), hwrite.trans (by omega),
    fun k hk => ?pending, hcopied, ?srcSeg, fun h => by omega⟩
  case pending => exact hbyte.trans (congrArg _ (Nat.succ.inj hk))
  case srcSeg =>
    have hheld : 2 ≤ t.dma.cycle + 1 ∧ t.dma.cycle + 1 ≤ 640 := by omega
    rw [if_pos hheld]
    change (if t.dma.cycle = 1 ∧ _ then some Segment.general else t.dma.srcSeg) = _
    by_cases hfirst : t.dma.cycle = 1
    · rw [if_pos ⟨hfirst, hgen⟩]
    · rw [if_neg (fun h => hfirst h.1), hseg, if_pos (by omega)]

/-- A write puts the pending byte into OAM, and the last one gives GENERAL back. -/
theorem Copying.tick_write (hm : s.cfg.baseOverride = []) (hr : .ppu ∈ s.bus.registered) (h : Copying s src c t)
    (h0 : c % 4 = 0) (hpos : 0 < c) (hc : c ≤ 640) : Copying s src (c + 1) (tickDma t) := by
  have hframe := @h.frame_trans
  have hne := h.srcSeg_ne_oam
  have hcfg := h.cfg
  obtain ⟨-, hreg, hoam, ha, rfl, hsource, hread, hwrite, hpend, hcopied, hseg, -⟩ := h
  have hnext : t.dma.pending = s.pageByte src t.dma.writeIdx := hpend _ (by omega)
  have hw : t.dmaWritten = t.setPpu (t.ppu.writeOam t.dma.writeIdx t.dma.pending) :=
    busWrite_oam (hcfg ▸ hm) (hreg ▸ hr) (by omega) _
  have hcopied' (k : Nat) (hk : k < t.dma.writeIdx + 1) :
      t.ppuEnv.oam (t.ppu.writeOam t.dma.writeIdx t.dma.pending) k = s.pageByte src k := by
    rw [PpuEnv.oam, Ppu.writeOam, readCell_insert]
    split
    · next he => rw [he, hnext]
    · exact hcopied k (by omega)
  have hidx : t.dma.writeIdx + 1 = (t.dma.cycle + 1 - 1) / 4 := by omega
  have hgen : t.dma.srcSeg = some .general := hseg.trans (if_pos (by omega))
  by_cases hlast : t.dma.cycle = 640
  · rw [tickDma_of_lastWrite ha hlast hne, hw]
    refine ⟨hframe rfl, hreg, hoam, ha, ?_, hsource, hread.trans (by omega), hidx, hpend, hcopied', ?_,
      fun _ => if_pos hgen⟩
    · exact congrArg (· + 1) hlast.symm
    · exact (if_neg (by omega)).symm
  · rw [tickDma_of_write ha h0 hpos (by omega), hw]
    exact ⟨hframe rfl, hreg, hoam, ha, rfl, hsource, hread.trans (by omega), hidx, hpend, hcopied',
      hgen.trans (if_pos (by omega)).symm, fun h => by omega⟩

theorem Copying.tick (hmap : s.defaultMap) (hr : .ppu ∈ s.bus.registered) (hsrc : src.toNat + 160 ≤ 0xFE00)
    (h : Copying s src c t) (hc : c < 643) : Copying s src (c + 1) (tickDma t) := by
  by_cases hread : c % 4 = 1 ∧ c < 640
  · exact h.tick_read hmap hsrc hread.1 hread.2
  · by_cases hwrite : c % 4 = 0 ∧ 0 < c
    · exact h.tick_write hmap.1 hr hwrite.1 hwrite.2 (by omega)
    · exact h.tick_idle hc (by omega) (by omega)

theorem Copying.ticks (hmap : s.defaultMap) (hr : .ppu ∈ s.bus.registered) (hsrc : src.toNat + 160 ≤ 0xFE00)
    (n : Nat) (h : Copying s src c t) (hn : c + n ≤ 643) : Copying s src (c + n) (repeatN n tickDma t) := by
  induction n generalizing c t with
  | zero => exact h
  | succ n ih =>
    rw [repeatN_succ, Nat.add_comm n 1, ← Nat.add_assoc]
    exact ih (h.tick hmap hr hsrc (by omega)) (by omega)

/-- The 644th tick leaves the engine idle, both segments free and the page in OAM (R287). -/
theorem Copying.finish (h : Copying s src 643 t) :
    (tickDma t).dma.active = false ∧ (tickDma t).bus.blockedOam = false ∧ (tickDma t).bus.blockedGeneral = false ∧
      ∀ k, k < 160 → (tickDma t).ppuEnv.oam (tickDma t).ppu k = s.pageByte src k := by
  have hseg : t.dma.srcSeg = none := h.srcSeg
  rw [tickDma_of_end h.active h.cycle h.srcSeg_ne_oam]
  refine ⟨rfl, rfl, ?_, fun k hk => h.copied k ?_⟩
  · simp only [State.setBus_bus, hseg]
    exact h.released (by decide)
  · rw [h.writeIdx]
    exact hk

end

/-- All the 160 bytes at the source lie below OAM (R281). -/
theorem dmaSourceOf_below_oam (v : Byte) : (dmaSourceOf v).toNat + 160 ≤ 0xFE00 := by
  have hv := v.isLt
  rw [dmaSourceOf_toNat]
  split <;> omega

/-- Settles O35: 643 ticks keep `Copying`, which then says that the page is in OAM, and the 644th ends the transfer. -/
theorem oamDmaCopiesThePage : Obligations.OamDmaCopiesThePage := by
  unfold Obligations.OamDmaCopiesThePage
  intro s hb v hmap hr hppu
  have hwr : exec (.wrDma hb v) s = .next (writeDma v s) := exec_wr_reached v hr
  have h := (Copying.begin v s).ticks hmap hppu (dmaSourceOf_below_oam v) 643 (by decide)
  rw [Nat.zero_add] at h
  obtain ⟨hactive, hoam, hgeneral, hcopied⟩ := h.finish
  refine ⟨_, _, ?run, h.blockedOam, rfl, hactive, hoam, hgeneral, fun k hk => ?copied⟩
  case run =>
    simp only [execAll, hwr]
    exact execAll_replicate (fun _ => rfl) 643 _
  case copied =>
    have haddr : BitVec.ofNat 16 (256 * (if 0xF0 ≤ v.toNat then v.toNat - 0x20 else v.toNat) + k) =
        dmaSourceOf v + BitVec.ofNat 16 k := by
      rw [BitVec.ofNat_add, ← dmaSourceOf_toNat, BitVec.ofNat_toNat, BitVec.setWidth_eq]
    rw [haddr, exec_rd, hcopied k hk]
    rfl

end Sys2Proof.Machine

namespace Sys2Proof.Machine

/-! The registers of the HDMA engine (R303 to R306, R309, R311). -/

theorem hdmaLength_eq (v : Byte) : hdmaLength v = (v.toNat % 128 + 1) * 16 := by
  rw [hdmaLength, BitVec.extractLsb'_toNat, Nat.shiftRight_zero]

/-- What HDMA5 reads, by the engine's state (R311). -/
theorem Hdma.statusByte_eq (h : Hdma) : h.statusByte =
    if h.state = .idle then 0xFF#8
    else if h.state = .terminated then 0x80#8 ||| h.blocksLeft.setWidth 8 else h.blocksLeft.setWidth 8 := by
  have hone (x : BitVec 7) : (1#1 ++ x : BitVec 8) = 0x80#8 ||| x.setWidth 8 := rfl
  have hzero (x : BitVec 7) : (0#1 ++ x : BitVec 8) = x.setWidth 8 := BitVec.zero_or
  rw [statusByte, hone, hzero]
  cases h.state <;> rfl

theorem Hdma.writeControl_of_cancel {h : Hdma} (vramBase : Addr) {v : Byte}
    (hb : h.state ≠ .idle ∧ h.state ≠ .terminated) (hm : h.mode = .hblank) (hv : v.getLsbD 7 = false) :
    h.writeControl vramBase v = { h with state := .terminated } := by
  have hbusy : h.busy = true := by
    by_contra hn
    exact h.not_busy_iff.mp hn |>.elim hb.1 hb.2
  exact if_pos (by rw [hbusy, hm, hv]; rfl)

theorem Hdma.writeControl_of_start {h : Hdma} (vramBase : Addr) {v : Byte}
    (hn : v.getLsbD 7 = false → ¬ ((h.state ≠ .idle ∧ h.state ≠ .terminated) ∧ h.mode = .hblank)) :
    h.writeControl vramBase v = h.start vramBase v := by
  refine if_neg fun hc => ?_
  simp only [Bool.and_eq_true, beq_iff_eq, Bool.not_eq_true'] at hc
  obtain ⟨⟨hbusy, hm⟩, hv⟩ := hc
  have hb : ¬ (h.state = .idle ∨ h.state = .terminated) := fun hs => h.not_busy_iff.mpr hs hbusy
  exact hn hv ⟨not_or.mp hb, hm⟩

/-- Settles O37: HDMA1 to HDMA4 store their byte; HDMA5 reads the status, and its write cancels or starts. -/
theorem hdmaRegisters : Obligations.HdmaRegisters := by
  unfold Obligations.HdmaRegisters
  refine ⟨fun s hb v => ⟨fun hr => ⟨exec_rd_reached hr, exec_wr_reached v hr⟩,
    fun hr => ⟨exec_rd_reached hr, exec_wr_reached v hr⟩, fun hr => ⟨exec_rd_reached hr, exec_wr_reached v hr⟩,
    fun hr => ⟨exec_rd_reached hr, exec_wr_reached v hr⟩⟩, fun s hb v hr => ?_⟩
  have hwr {h : Hdma} (hw : s.hdma.writeControl (s.cfg.base .vram) v = h) :
      exec (.wrHdma5 hb v) s = .next (s.setHdma h) := hw ▸ exec_wr_reached v hr
  simp only [← hdmaLength_eq]
  refine ⟨exec_rd_register hr s.hdma.statusByte_eq, fun hbusy hm hv => ?cancel, fun hn hv => ?general, fun hv => ?hblank⟩
  case cancel => exact hwr (Hdma.writeControl_of_cancel _ hbusy hm hv)
  case general => exact hwr ((Hdma.writeControl_of_start _ fun _ => hn).trans (if_neg (Bool.eq_false_iff.mp hv)))
  case hblank => exact hwr ((Hdma.writeControl_of_start _ fun h0 => nomatch hv.symm.trans h0).trans (if_pos hv))

/-! The byte an HDMA transfer moves: one tick reads it, the next writes it (R312, R313). -/

/-- The byte the HDMA engine reads next. -/
def State.hdmaByte (s : State) : Byte := (busRead s.hdma.src false s).1

/-- The machine between the read and the write of a byte. -/
def State.hdmaFetched (s : State) : State :=
  s.setHdma { s.hdma with pending := s.hdmaByte, src := s.hdma.src + 1#16, state := .write }

/-- The engine after one byte: both cursors moved on, one byte less to go. -/
def Hdma.moved (vramBase : Addr) (b : Byte) (h : Hdma) : Hdma :=
  { h with
    pending := b
    src := h.src + 1#16
    dst := hdmaNextDst vramBase h.dst
    remaining := h.remaining - 1
    state := hdmaNextState h.mode (h.remaining - 1) }

theorem tickHdma_of_waitHBlank {s : State} (hs : s.hdma.state = .waitHBlank) (hb : s.ppu.mode = .hblank) :
    tickHdma s = s.setHdma { s.hdma with state := .read } := by
  rw [tickHdma, hs, hb]
  rfl

theorem tickHdma_of_read {s : State} (hs : s.hdma.state = .read) : tickHdma s = s.hdmaFetched := by
  simp only [tickHdma, hs, hdmaReadStep, busRead_snd]
  rfl

/-- A write into VRAM leaves the engine its own part of the work. -/
theorem tickHdma_of_write {s : State} (hm : s.cfg.baseOverride = [])
    (hd : (s.hdma.dst - s.cfg.base .vram).toNat < 0x2000) (hs : s.hdma.state = .write) :
    tickHdma s = (busWrite s.hdma.dst s.hdma.pending false s).setHdma { s.hdma with
      dst := hdmaNextDst (s.cfg.base .vram) s.hdma.dst
      remaining := s.hdma.remaining - 1
      state := hdmaNextState s.hdma.mode (s.hdma.remaining - 1) } := by
  simp only [tickHdma, hs, hdmaWriteStep, busWrite_vram hm hd]

/-- Two ticks move a byte. -/
theorem tickHdma_twice {s : State} (hm : s.cfg.baseOverride = []) (hd : (s.hdma.dst - s.cfg.base .vram).toNat < 0x2000)
    (hs : s.hdma.state = .read) :
    tickHdma (tickHdma s) = (busWrite s.hdma.dst s.hdmaByte false s.hdmaFetched).setHdma
      (s.hdma.moved (s.cfg.base .vram) s.hdmaByte) := by
  rw [tickHdma_of_read hs]
  exact tickHdma_of_write (s := s.hdmaFetched) hm hd rfl

/-! The destination cursor, as a cell of VRAM (R304, R313). -/

/-- The cell of VRAM that takes the byte `k` bytes from now: the cursor wraps inside VRAM. -/
def Hdma.cell (h : Hdma) (k : Nat) : BitVec 13 := BitVec.ofNat 13 ((h.dst - Place.vram.defaultBase).toNat + k)

theorem Hdma.cell_succ (h : Hdma) (k : Nat) : h.cell (k + 1) = h.cell k + 1#13 := by
  rw [cell, cell, ← Nat.add_assoc, BitVec.ofNat_add]

/-- A whole turn of VRAM lies between two bytes for one cell. -/
theorem Hdma.cell_ne {h : Hdma} {j k : Nat} (hjk : j < k) (hk : k - j < 0x2000) : h.cell j ≠ h.cell k := by
  intro he
  have he := congrArg BitVec.toNat he
  rw [cell, cell, BitVec.toNat_ofNat, BitVec.toNat_ofNat] at he
  omega

theorem placeAddr_cell_zero {h : Hdma} (hd : (h.dst - Place.vram.defaultBase).toNat < 0x2000) :
    placeAddr .vram (h.cell 0).toNat = h.dst := by
  have hcell : (h.cell 0).toNat = (h.dst - Place.vram.defaultBase).toNat := by
    rw [Hdma.cell, BitVec.toNat_ofNat, Nat.add_zero, Nat.mod_eq_of_lt hd]
  rw [placeAddr, hcell, BitVec.ofNat_toNat, BitVec.setWidth_eq, BitVec.add_comm, BitVec.sub_add_cancel]

theorem placeAddr_vram_sub (c : BitVec 13) : placeAddr .vram c.toNat - Place.vram.defaultBase = c.setWidth 16 := by
  rw [placeAddr, BitVec.add_comm, BitVec.add_sub_cancel, BitVec.ofNat_toNat]

theorem placeAddr_vram_sub_lt (c : BitVec 13) :
    (placeAddr .vram c.toNat - Place.vram.defaultBase).toNat < 0x2000 := by
  rw [placeAddr_vram_sub, BitVec.toNat_setWidth]
  omega

/-- The cursor moves to the next cell. -/
theorem hdmaNextDst_placeAddr (c : BitVec 13) :
    hdmaNextDst Place.vram.defaultBase (placeAddr .vram c.toNat) = placeAddr .vram (c + 1#13).toNat := by
  have hnext : (c.setWidth 16 + 1#16) &&& 0x1FFF#16 = BitVec.ofNat 16 (c + 1#13).toNat := by
    apply BitVec.eq_of_toNat_eq
    have hmask : (0x1FFF#16).toNat = 2 ^ 13 - 1 := rfl
    rw [BitVec.toNat_and, hmask, Nat.and_two_pow_sub_one_eq_mod]
    simp only [BitVec.toNat_add, BitVec.toNat_setWidth, BitVec.toNat_ofNat]
    omega
  rw [hdmaNextDst, placeAddr_vram_sub, hnext]
  rfl

/-! The engine along a transfer (R300, R313). -/

theorem hdmaNextState_gp {n : Nat} (hn : n ≠ 0) : hdmaNextState .gp n = .read := by
  simp [hdmaNextState, hn]

theorem hdmaNextState_inside_chunk {m : HdmaMode} {n : Nat} (hn : n % 16 ≠ 0) : hdmaNextState m n = .read := by
  have h0 : n ≠ 0 := fun h => hn (by rw [h])
  simp [hdmaNextState, hn, h0]

theorem hdmaNextState_chunk_end {n : Nat} (hn : n % 16 = 0) :
    hdmaNextState .hblank n = if n = 0 then .idle else .waitNotHBlank := by
  simp [hdmaNextState, hn]

/-- What holds before the first step and is carried on by each of `n` steps holds after them. -/
theorem repeatN_counts {α : Type} {P : Nat → α → Prop} {f : α → α} {a : α} (h0 : P 0 a) (n : Nat)
    (hf : ∀ k b, k < n → P k b → P (k + 1) (f b)) : P n (repeatN n f a) := by
  induction n with
  | zero => exact h0
  | succ n ih =>
    rw [repeatN_add]
    exact hf n _ n.lt_succ_self (ih fun k b hk => hf k b (hk.trans n.lt_succ_self))

/-- How the engine in `t` stands when `k` bytes of what is due in `s` have been moved. -/
structure Moved (s : State) (k : Nat) (t : State) : Prop where
  cfg : t.cfg = s.cfg
  mode : t.hdma.mode = s.hdma.mode
  src : t.hdma.src = s.hdma.src + BitVec.ofNat 16 k
  dst : t.hdma.dst = placeAddr .vram (s.hdma.cell k).toNat
  remaining : t.hdma.remaining = s.hdma.remaining - k
  state : t.hdma.state = if k = 0 then .read else hdmaNextState s.hdma.mode (s.hdma.remaining - k)

section
variable {s t : State} {k : Nat}

theorem Moved.state_read (h : Moved s k t) (hk : 0 < k → hdmaNextState s.hdma.mode (s.hdma.remaining - k) = .read) :
    t.hdma.state = .read := by
  rw [h.state]
  split
  · rfl
  · next h0 => exact hk (Nat.pos_of_ne_zero h0)

theorem Moved.twice (hm : s.cfg.baseOverride = []) (h : Moved s k t) (hs : t.hdma.state = .read) :
    tickHdma (tickHdma t) = (busWrite (placeAddr .vram (s.hdma.cell k).toNat) t.hdmaByte false t.hdmaFetched).setHdma
      (t.hdma.moved Place.vram.defaultBase t.hdmaByte) := by
  have hmt : t.cfg.baseOverride = [] := h.cfg ▸ hm
  have hd : (t.hdma.dst - t.cfg.base .vram).toNat < 0x2000 := by
    rw [base_default hmt, h.dst]
    exact placeAddr_vram_sub_lt _
  rw [tickHdma_twice hmt hd hs, base_default hmt, h.dst]

/-- A byte more. -/
theorem Moved.byte (hm : s.cfg.baseOverride = []) (h : Moved s k t) (hs : t.hdma.state = .read) :
    Moved s (k + 1) (tickHdma (tickHdma t)) := by
  rw [h.twice hm hs]
  have hrem : t.hdma.remaining - 1 = s.hdma.remaining - (k + 1) := by rw [h.remaining, Nat.sub_sub]
  refine ⟨(busWrite_cfg ..).trans h.cfg, h.mode, ?src, ?dst, hrem, ?state⟩
  case src =>
    change t.hdma.src + 1#16 = _
    rw [h.src, BitVec.ofNat_add, BitVec.add_assoc]
  case dst =>
    change hdmaNextDst _ t.hdma.dst = _
    rw [h.dst, hdmaNextDst_placeAddr, Hdma.cell_succ]
  case state =>
    change hdmaNextState t.hdma.mode (t.hdma.remaining - 1) = _
    rw [h.mode, hrem, if_neg k.succ_ne_zero]

/-- The engine about to read the first byte. -/
theorem Moved.start (hm : s.cfg.baseOverride = []) (hd : (s.hdma.dst - s.cfg.base .vram).toNat < 0x2000) :
    Moved s 0 (s.setHdma { s.hdma with state := .read }) := by
  rw [base_default hm] at hd
  exact ⟨rfl, rfl, (BitVec.add_zero _).symm, (placeAddr_cell_zero hd).symm, rfl, rfl⟩

end

/-! A general-purpose transfer (R300, R308). -/

/-- Bytes of a general-purpose transfer, two ticks each. -/
theorem Moved.general {s : State} (hm : s.cfg.baseOverride = []) (h : Moved s 0 s) (hgp : s.hdma.mode = .gp) {n : Nat}
    (hn : n ≤ s.hdma.remaining) : Moved s n (repeatN (2 * n) tickHdma s) := by
  rw [repeatN_double]
  exact repeatN_counts h n fun k t hk ht =>
    ht.byte hm (ht.state_read fun _ => by rw [hgp]; exact hdmaNextState_gp (by omega))

/-- Settles O40: after `k` bytes the engine stands where `Moved` says, and it is idle when no byte remains. -/
theorem generalPurposeRunsOut : Obligations.GeneralPurposeRunsOut := by
  unfold Obligations.GeneralPurposeRunsOut
  intro s hmap hi hs hgp
  have hm := hmap.1
  have h0 : Moved s 0 s := by
    have h := Moved.start hm (hi.hdma.dst (by simp [Hdma.busy, hs]))
    rwa [← hs] at h
  have hrem : s.hdma.remaining ≠ 0 := fun h => nomatch hs.symm.trans (hi.hdma.idle.mpr h)
  have hrun (n : Nat) := execAll_replicate (i := .tickHdma) (f := tickHdma) (fun _ => rfl) n s
  have hend := h0.general hm hgp (Nat.le_refl _)
  refine ⟨_, hrun _, ?idle, ?none, hend.src, fun n hn => ⟨_, hrun n, ?busy⟩⟩
  case idle => rw [hend.state, if_neg hrem, Nat.sub_self]; rfl
  case none => rw [hend.remaining, Nat.sub_self]
  case busy =>
    have hk := h0.general hm hgp (n := n / 2) (by omega)
    have hread := hk.state_read fun _ => by rw [hgp]; exact hdmaNextState_gp (by omega)
    obtain he | he := n.mod_two_eq_zero_or_one
    · have hn2 : n = 2 * (n / 2) := by omega
      rw [hn2, hread]
      decide
    · have hn2 : n = 2 * (n / 2) + 1 := by omega
      rw [hn2, repeatN_add]
      change (tickHdma _).hdma.state ≠ .idle
      rw [tickHdma_of_read hread]
      exact nofun

/-! An HBlank chunk (R300, R314). -/

/-- What a transfer changes of the machine: VRAM and the engine. -/
def State.withVram (s : State) (m : Memory) (h : Hdma) : State := (s.setPpu { s.ppu with vram := m }).setHdma h

/-- Only VRAM and the status register show it. -/
theorem readPlace_withVram {p : Place} (hv : p ≠ .vram) (hh : p ≠ .hdma5) (s : State) (m : Memory) (h : Hdma) (off : Nat)
    (a : Addr) (hb : Bool) : readPlace p off a hb (s.withVram m h) = readPlace p off a hb s := by
  cases p
  case vram => exact absurd rfl hv
  case hdma5 => exact absurd rfl hh
  all_goals rfl

/-- The sources that R314's chunk is stated for: neither VRAM nor from OAM on. -/
def ChunkSource (a : Addr) : Prop := a.toNat < 0x8000 ∨ (0xA000 ≤ a.toNat ∧ a.toNat < 0xFE00)

/-- Neither VRAM nor the status register stands at such a source. -/
theorem routeOwner_chunkSource {s : State} (hm : s.cfg.baseOverride = []) {a : Addr} (ha : ChunkSource a) {p : Place}
    {off : Nat} (hr : routeOwner s a = .deliver p off) : p ≠ .vram ∧ p ≠ .hdma5 := by
  obtain ⟨_, _, _, _, hle, hlt⟩ := routeOwner_deliver hr
  rw [base_default hm] at hle hlt
  constructor
  · rintro rfl
    change 0x8000 ≤ _ at hle
    change _ < 0x8000 + 0x2000 at hlt
    rcases ha with ha | ha <;> omega
  · rintro rfl
    change 0xFF55 ≤ _ at hle
    rcases ha with ha | ha <;> omega

/-- A transfer does not change what the engine reads at such a source. -/
theorem busRead_withVram {s : State} (hm : s.cfg.baseOverride = []) {a : Addr} (ha : ChunkSource a) (m : Memory) (h : Hdma) :
    (busRead a false (s.withVram m h)).1 = (busRead a false s).1 := by
  have hr : route (s.withVram m h) a false = route s a false := rfl
  cases hs : route s a false with
  | blocked g => exact absurd ((route_unblocked s a).symm.trans hs) (routeOwner_ne_blocked s a g)
  | unmapped => rw [busRead_unmapped (hr.trans hs), busRead_unmapped hs]; rfl
  | unclaimed k => exact absurd hs (route_ne_unclaimed s a false k)
  | deliver p off =>
    obtain ⟨hv, hh⟩ := routeOwner_chunkSource hm ha (route_deliver hs)
    rw [busRead_deliver (hr.trans hs), busRead_deliver hs, readPlace_withVram hv hh]

/-- The engine's write of a cell of VRAM, whatever else is registered. -/
theorem busWrite_vram_cell {s : State} (hm : s.cfg.baseOverride = []) (hr : HandlerId.ppu ∈ s.bus.registered) (c : BitVec 13)
    (v : Byte) :
    busWrite (placeAddr .vram c.toNat) v false s = s.setPpu (s.ppu.writeVram s.cfg.hwMode c.toNat v) := by
  have hroute : route s (placeAddr .vram c.toNat) false = .deliver .vram c.toNat := by
    rw [route_unblocked]
    exact routeOwner_placeAddr (p := .vram) hm rfl hr c.isLt
  have hfree : ¬ s.ppu.vramLocked s.cfg false = true := by simp [Ppu.vramLocked_iff]
  rw [busWrite_deliver hroute, writePlace, if_neg hfree]

/-- How the machine `t` stands after `k` bytes of the chunk that is due in `s`. -/
structure Chunk (s : State) (k : Nat) (t : State) : Prop extends Moved s k t where
  frame : t = s.withVram t.ppu.vram t.hdma
  copied : ∀ j, j < k → t.ppuEnv.vram t.ppu s.ppu.vbk.toNat (s.hdma.cell j).toNat = s.pageByte s.hdma.src j
  kept : ∀ (b : BitVec 1) (o : BitVec 13), (b = s.ppu.vbk → ∀ j, j < k → o ≠ s.hdma.cell j) →
    t.ppuEnv.vram t.ppu b.toNat o.toNat = s.ppuEnv.vram s.ppu b.toNat o.toNat

section
variable {s t : State} {k : Nat}

/-- The source shows the engine the bytes it held before the chunk. -/
theorem Chunk.hdmaByte (hm : s.cfg.baseOverride = []) (hsrc : ChunkSource (s.hdma.src + BitVec.ofNat 16 k))
    (h : Chunk s k t) : t.hdmaByte = s.pageByte s.hdma.src k := by
  have hread := busRead_withVram hm hsrc t.ppu.vram t.hdma
  rw [← h.frame] at hread
  rw [State.hdmaByte, h.src]
  exact hread

/-- What changes nothing but VRAM and the engine of `t` changes nothing else of `s`. -/
theorem Chunk.frame_trans (h : Chunk s k t) {u : State} (hu : u = t.withVram u.ppu.vram u.hdma) :
    u = s.withVram u.ppu.vram u.hdma := by
  rw [h.frame] at hu
  exact hu

theorem Chunk.twice_vram (hm : s.cfg.baseOverride = []) (hr : .ppu ∈ s.bus.registered) (hcgb : s.cfg.hwMode = .cgb)
    (hsrc : ChunkSource (s.hdma.src + BitVec.ofNat 16 k)) (h : Chunk s k t) (hs : t.hdma.state = .read) :
    tickHdma (tickHdma t) =
      (t.setPpu (t.ppu.writeVram .cgb (s.hdma.cell k).toNat (s.pageByte s.hdma.src k))).setHdma
        (t.hdma.moved Place.vram.defaultBase (s.pageByte s.hdma.src k)) := by
  have hregistered : t.bus.registered = s.bus.registered := by rw [h.frame]; rfl
  have hmode : t.hdmaFetched.cfg.hwMode = .cgb := (congrArg Config.hwMode h.cfg).trans hcgb
  rw [h.twice hm hs, busWrite_vram_cell (h.cfg ▸ hm) (hregistered ▸ hr), hmode, h.hdmaByte hm hsrc]
  rfl

/-- A byte more. -/
theorem Chunk.byte (hm : s.cfg.baseOverride = []) (hr : .ppu ∈ s.bus.registered) (hcgb : s.cfg.hwMode = .cgb)
    (hsrc : ChunkSource (s.hdma.src + BitVec.ofNat 16 k)) (hk : k < 0x2000) (h : Chunk s k t) (hs : t.hdma.state = .read) :
    Chunk s (k + 1) (tickHdma (tickHdma t)) := by
  have hmoved := h.toMoved.byte hm hs
  have htwice := h.twice_vram hm hr hcgb hsrc hs
  generalize tickHdma (tickHdma t) = u at hmoved htwice ⊢
  have hvbk : t.ppu.vbk = s.ppu.vbk := by rw [h.frame]; rfl
  have hvram (b : BitVec 1) (o : BitVec 13) : u.ppuEnv.vram u.ppu b.toNat o.toNat =
      if b = s.ppu.vbk ∧ o = s.hdma.cell k then s.pageByte s.hdma.src k else t.ppuEnv.vram t.ppu b.toNat o.toNat := by
    simp only [← hvbk, ← BitVec.toNat_inj (x := b)]
    rw [htwice]
    exact t.ppuEnv.vram_writeVram t.ppu .cgb _ _ b.toNat o
  refine ⟨hmoved, h.frame_trans (by rw [htwice]; rfl), fun j hj => ?copied, fun b o hbo => ?kept⟩
  case copied =>
    rw [hvram]
    obtain hj | rfl := Nat.lt_succ_iff_lt_or_eq.mp hj
    · rw [if_neg fun hc => Hdma.cell_ne hj (by omega) hc.2, h.copied j hj]
    · rw [if_pos ⟨rfl, rfl⟩]
  case kept =>
    rw [hvram, if_neg fun hc => hbo hc.1 k k.lt_succ_self hc.2]
    exact h.kept b o fun hb j hj => hbo hb j (hj.trans k.lt_succ_self)

theorem Chunk.start (hm : s.cfg.baseOverride = []) (hd : (s.hdma.dst - s.cfg.base .vram).toNat < 0x2000) :
    Chunk s 0 (s.setHdma { s.hdma with state := .read }) :=
  ⟨Moved.start hm hd, rfl, nofun, fun _ _ _ => rfl⟩

/-- The sixteen bytes of a chunk, two ticks each. -/
theorem Chunk.sixteen (hm : s.cfg.baseOverride = []) (hr : .ppu ∈ s.bus.registered) (hcgb : s.cfg.hwMode = .cgb)
    (hsrc : ∀ k, k < 16 → ChunkSource (s.hdma.src + BitVec.ofNat 16 k)) (hrem : s.hdma.remaining % 16 = 0)
    (hpos : 16 ≤ s.hdma.remaining) (h : Chunk s 0 t) : Chunk s 16 (repeatN 32 tickHdma t) := by
  change Chunk s 16 (repeatN (2 * 16) tickHdma t)
  rw [repeatN_double]
  exact repeatN_counts h 16 fun k t hk ht =>
    ht.byte hm hr hcgb (hsrc k hk) (by omega) (ht.state_read fun _ => hdmaNextState_inside_chunk (by omega))

end

/-- The chunk's bytes all lie at such sources if the first and the last one do. -/
theorem chunkSource_add {a : Addr} (ha : a.toNat + 15 < 0x8000 ∨ (0xA000 ≤ a.toNat ∧ a.toNat + 15 < 0xFE00)) {k : Nat}
    (hk : k < 16) : ChunkSource (a + BitVec.ofNat 16 k) := by
  rw [ChunkSource, BitVec.toNat_add, BitVec.toNat_ofNat]
  omega

/-- Settles O39: the first tick sees HBlank, and 32 more move sixteen bytes as `Chunk` says. -/
theorem hblankChunkMovesSixteenBytes : Obligations.HBlankChunkMovesSixteenBytes := by
  unfold Obligations.HBlankChunkMovesSixteenBytes
  intro s hmap hi hr hcgb hs hmode hblank hrem hsrc
  have hm := hmap.1
  have hne : s.hdma.remaining ≠ 0 := fun h => nomatch hs.symm.trans (hi.hdma.idle.mpr h)
  have hpos : 16 ≤ s.hdma.remaining := by omega
  have hd := hi.hdma.dst (by simp [Hdma.busy, hs])
  have h := (Chunk.start hm hd).sixteen hm hr hcgb (fun k hk => chunkSource_add hsrc hk) hrem hpos
  have hrun := execAll_replicate (i := .tickHdma) (f := tickHdma) (fun _ => rfl) 33 s
  rw [repeatN_succ, tickHdma_of_waitHBlank hs hblank] at hrun
  refine ⟨_, hrun, ?remaining, h.src, ?state, h.frame, fun k hk => ?copied, fun b o hbo => ?kept⟩
  case remaining => rw [h.remaining, Nat.sub_add_cancel hpos]
  case state =>
    rw [h.state, if_neg (by decide), hmode, hdmaNextState_chunk_end (by omega)]
    exact if_congr (by omega) rfl rfl
  case copied =>
    have hbyte : (busRead (s.hdma.src + BitVec.ofNat 16 k) false s).1 = _ := (h.copied k hk).symm
    rw [exec_rd, hbyte]
    rfl
  case kept => exact h.kept b o fun hb k hk he => hbo hb k hk (congrArg BitVec.toNat he)

end Sys2Proof.Machine

namespace Sys2Proof.Machine

/-! The observed signal and the increment of TIMA (R331, R332). -/

/-- The signal is high where the Timer is enabled and the selected counter bit is set. -/
theorem Timer.sig_iff (t : Timer) :
    t.sig = true ↔ t.tac.getLsbD 2 = true ∧ t.counter.getLsbD t.selBit.index = true :=
  Bool.and_eq_true_iff

/-- TIMA overflows from `0xFF`, which starts the reload counter. -/
theorem Timer.incTima_eq (hold : Nat) (t : Timer) : t.incTima hold =
    { t with
      tima := t.tima + 1#8
      reloadCtr := if t.tima = 0xFF#8 then 4 + hold else t.reloadCtr } := by
  have hwrap : t.tima + 1#8 = 0#8 ↔ t.tima = 0xFF#8 := by bv_omega
  simp only [incTima, hwrap, timaReloadDelay]

theorem Timer.onFall_of_fall {hold : Nat} {old : Bool} {t : Timer} (h : old = true ∧ ¬ t.sig = true) :
    Timer.onFall hold old t = t.incTima hold := by
  obtain ⟨rfl, hlow⟩ := h
  simp only [onFall, hlow]
  rfl

theorem Timer.onFall_of_not_fall {hold : Nat} {old : Bool} {t : Timer} (h : ¬ (old = true ∧ ¬ t.sig = true)) :
    Timer.onFall hold old t = t :=
  if_neg (by simpa using h)

/-- A write that reaches one of the Timer's registers makes of the Timer what the register's rule says (R164). -/
theorem exec_wr_timer {s : State} {p : Place} {hb : Bool} {v : Byte} {u t : Timer} (h : Reached s p 0 hb)
    (hrule : writePlace p 0 (placeAddr p 0) v hb s = s.setTimer u) (hu : u = t) :
    exec (.wr hb (placeAddr p 0) v) s = .next (s.setTimer t) := by
  rw [exec_wr_reached v h, hrule, hu]

/-! DIV (R334, R335). -/

theorem Timer.writeDiv_of_high {t : Timer} (hold : Nat) (h : t.sig = true) :
    t.writeDiv hold = Timer.incTima hold { t with counter := 0#16 } := if_pos h

theorem Timer.writeDiv_of_low {t : Timer} (hold : Nat) (h : ¬ t.sig = true) :
    t.writeDiv hold = { t with counter := 0#16 } := if_neg h

/-! TIMA (R337 to R339): a write by the reload counter's place before, in or outside the hold window. -/

theorem Timer.writeTima_of_delay {hold : Nat} {t : Timer} (v : Byte) (h : hold < t.reloadCtr) :
    t.writeTima hold v = { t with tima := v, reloadCtr := 0 } := if_pos h

theorem Timer.writeTima_of_hold {hold : Nat} {t : Timer} (v : Byte) (h0 : 0 < t.reloadCtr) (h : t.reloadCtr ≤ hold) :
    t.writeTima hold v = t := (if_neg (Nat.not_lt.mpr h)).trans (if_pos h0)

theorem Timer.writeTima_of_no_reload {hold : Nat} {t : Timer} (v : Byte) (h : t.reloadCtr = 0) :
    t.writeTima hold v = { t with tima := v } := by
  rw [writeTima, h, if_neg (Nat.not_lt_zero hold), if_neg (Nat.lt_irrefl 0)]

/-- Settles O14: the write of DIV by the signal it finds, the write of TIMA by the reload counter. -/
theorem divAndTimaRegisters : Obligations.DivAndTimaRegisters := by
  unfold Obligations.DivAndTimaRegisters
  refine ⟨fun s hb v hr => ?div, fun s hb v hr => ?tima⟩
  case div =>
    rw [← Timer.sig_iff]
    exact ⟨exec_rd_reached hr,
      fun h => exec_wr_timer hr rfl ((Timer.writeDiv_of_high _ h).trans (Timer.incTima_eq ..)),
      fun h => exec_wr_timer hr rfl (Timer.writeDiv_of_low _ h)⟩
  case tima =>
    exact ⟨exec_rd_reached hr, fun h => exec_wr_timer hr rfl (Timer.writeTima_of_delay v h),
      fun h0 h => exec_wr_timer hr rfl (Timer.writeTima_of_hold v h0 h),
      fun h => exec_wr_timer hr rfl (Timer.writeTima_of_no_reload v h)⟩

/-! TMA (R340). -/

theorem Timer.writeTma_of_forward {hold : Nat} {forward : Bool} {t : Timer} (v : Byte)
    (h : forward = true ∧ 0 < t.reloadCtr ∧ t.reloadCtr ≤ hold) :
    t.writeTma hold forward v = { t with tma := v, tima := v } := by
  obtain ⟨rfl, h0, hh⟩ := h
  simp [writeTma, h0, hh]

theorem Timer.writeTma_of_not_forward {hold : Nat} {forward : Bool} {t : Timer} (v : Byte)
    (h : ¬ (forward = true ∧ 0 < t.reloadCtr ∧ t.reloadCtr ≤ hold)) :
    t.writeTma hold forward v = { t with tma := v } := by
  have hoff : ¬ (forward && decide (0 < t.reloadCtr) && decide (t.reloadCtr ≤ hold)) = true := by
    simpa [and_assoc] using h
  rw [writeTma, if_neg hoff]

/-! TAC (R341, R342). -/

/-- The unused bits of TAC read as ones. -/
theorem Timer.readTac_eq (t : Timer) : t.readTac = 0xF8#8 ||| t.tac.setWidth 8 := rfl

/-- The four settings of the clock select (R52). -/
theorem muxOf_index (c : BitVec 2) : (muxOf c).index = [9, 3, 5, 7].getD c.toNat 0 := by
  revert c
  decide

/-- The Timer with a byte stored in TAC, before any increment. -/
def Timer.storeTac (v : Byte) (t : Timer) : Timer :=
  { t with tac := v.extractLsb' 0 3, selBit := muxOf (v.extractLsb' 0 2) }

theorem Timer.storeTac_sig_iff (v : Byte) (t : Timer) : (t.storeTac v).sig = true ↔
    v.getLsbD 2 = true ∧ t.counter.getLsbD ([9, 3, 5, 7].getD (v.extractLsb' 0 2).toNat 0) = true := by
  have henable : (v.extractLsb' 0 3).getLsbD 2 = v.getLsbD 2 := by simp
  rw [sig_iff, storeTac, henable, muxOf_index]

theorem Timer.writeTac_eq (hold : Nat) (v : Byte) (t : Timer) :
    t.writeTac hold v = Timer.onFall hold t.sig (t.storeTac v) := rfl

/-- Settles O15: a write of TAC is the store, and an increment where the signal falls by it. -/
theorem tmaAndTacRegisters : Obligations.TmaAndTacRegisters := by
  unfold Obligations.TmaAndTacRegisters
  refine ⟨fun s hb v hr => ?tma, fun s hb v hr => ⟨exec_rd_register hr s.timer.readTac_eq, ?tac⟩⟩
  case tma =>
    exact ⟨exec_rd_reached hr, fun h => exec_wr_timer hr rfl (Timer.writeTma_of_forward v h),
      fun h => exec_wr_timer hr rfl (Timer.writeTma_of_not_forward v h)⟩
  case tac =>
    refine ⟨s.setTimer (s.timer.writeTac s.cfg.timaReloadHold v), exec_wr_reached v hr, rfl, ?_⟩
    rw [← Timer.sig_iff, ← Timer.storeTac_sig_iff, State.setTimer_timer, Timer.writeTac_eq]
    by_cases hfall : s.timer.sig = true ∧ ¬ (s.timer.storeTac v).sig = true
    · rw [Timer.onFall_of_fall hfall, Timer.incTima_eq]
      exact ⟨rfl, rfl, rfl, muxOf_index _, fun _ => ⟨rfl, rfl⟩, fun h => absurd hfall h⟩
    · rw [Timer.onFall_of_not_fall hfall]
      exact ⟨rfl, rfl, rfl, muxOf_index _, fun h => absurd h hfall, fun _ => ⟨rfl, rfl⟩⟩

end Sys2Proof.Machine

namespace Sys2Proof.Machine

/-! The writes that the APU ignores while its power is off (R366 to R370, R383, R421, R423). -/

/-- A write that reaches a register under the power's gate does what the register's rule says, or nothing (R423). -/
theorem exec_wr_ifPower {s : State} {p : Place} {hb : Bool} {v : Byte} {a : Apu} (h : Reached s p 0 hb)
    (hrule : writePlace p 0 (placeAddr p 0) v hb s = s.setApu (s.apu.ifPower a)) :
    exec (.wr hb (placeAddr p 0) v) s = .next (if s.apu.power = true then s.setApu a else s) := by
  rw [exec_wr_reached v h, hrule, Apu.ifPower]
  split <;> rfl

/-- Settles O43: each of these registers' rules is a store under the power's gate. -/
theorem apuPlainWrites : Obligations.ApuPlainWrites := by
  unfold Obligations.ApuPlainWrites
  intro s hb v
  exact ⟨fun h => exec_wr_ifPower h rfl, fun h => exec_wr_ifPower h rfl, fun h => exec_wr_ifPower h rfl,
    fun h => exec_wr_ifPower h rfl, fun h => exec_wr_ifPower h rfl, fun h => exec_wr_ifPower h rfl,
    fun h => exec_wr_ifPower h rfl, fun h => exec_wr_ifPower h rfl⟩

/-- Settles O42: the rule of each of these registers stands under the power's gate. -/
theorem apuWritesIgnoredWithPowerOff : Obligations.ApuWritesIgnoredWithPowerOff := by
  unfold Obligations.ApuWritesIgnoredWithPowerOff
  intro s hb v p hoff hr hp
  obtain ⟨hrow, hsize⟩ : p ∈ Place.inTable ∧ 0 < p.size := by fin_cases hp <;> decide
  obtain ⟨a, hrule⟩ : ∃ a, writePlace p 0 (placeAddr p 0) v hb s = s.setApu (s.apu.ifPower a) := by
    fin_cases hp <;> exact ⟨_, rfl⟩
  rw [exec_writeInstr (tablePlaceAt_register hrow hsize), exec_wr_ifPower hr hrule, hoff]
  rfl

/-! The fields of the APU's registers as numbers (R65, R146 to R150). -/

theorem sweepPeriod_eq (nr10 : Byte) : sweepPeriod nr10 = nr10.toNat / 16 % 8 := by
  rw [sweepPeriod, BitVec.extractLsb'_toNat, Nat.shiftRight_eq_div_pow]

theorem sweepShift_eq (nr10 : Byte) : sweepShift nr10 = nr10.toNat % 8 := by
  rw [sweepShift, BitVec.extractLsb'_toNat, Nat.shiftRight_zero]

theorem envPeriod_eq (nrc2 : Byte) : envPeriod nrc2 = nrc2.toNat % 8 := by
  rw [envPeriod, BitVec.extractLsb'_toNat, Nat.shiftRight_zero]

theorem freqOf_toNat (nrc4 nrc3 : Byte) : (freqOf nrc4 nrc3).toNat = nrc4.toNat % 8 * 256 + nrc3.toNat := by
  rw [freqOf, BitVec.toNat_append, BitVec.extractLsb'_toNat, Nat.shiftRight_zero,
    ← Nat.shiftLeft_add_eq_or_of_lt nrc3.isLt, Nat.shiftLeft_eq]

/-- What a write of NRc4 stores keeps the frequency's high bits (R370). -/
theorem masked47_mod_eight (v : Byte) : (v &&& 0x47#8).toNat % 8 = v.toNat % 8 := by
  revert v
  decide

theorem dacOnEnv_iff (nrc2 : Byte) : dacOnEnv nrc2 = true ↔ 8 ≤ nrc2.toNat := by
  have hbits : (nrc2.extractLsb' 3 5).toNat = nrc2.toNat / 8 := by
    rw [BitVec.extractLsb'_toNat, Nat.shiftRight_eq_div_pow]
    have := nrc2.isLt
    omega
  rw [dacOnEnv, bne_iff_ne, Ne, ← BitVec.toNat_inj, hbits]
  simp

theorem dutyPattern_eq (nrc1 : Byte) : dutyPattern nrc1 =
    [0b00000001#8, 0b10000001#8, 0b10000111#8, 0b01111110#8].getD (nrc1.toNat / 64) 0#8 := by
  revert nrc1
  decide

theorem waveShift_eq (nr32 : Byte) : waveShift nr32 = [4, 0, 1, 2].getD (nr32.toNat / 32 % 4) 0 := by
  revert nr32
  decide

theorem noiseReload_eq (nr43 : Byte) : noiseReload nr43 =
    [8, 16, 32, 48, 64, 80, 96, 112].getD (nr43.toNat % 8) 0 * 2 ^ (nr43.toNat / 16) := by
  revert nr43
  decide

end Sys2Proof.Machine

namespace Sys2Proof.Machine

/-! The units' clocks (R364, R367). -/

/-- On the steps of `p` the length clock counts an enabled length that has not run out, and disables the channel at its
end (R364). -/
theorem Chan.ite_lengthClock (p : Prop) [Decidable p] (k : Chan) :
    (if p ∧ k.lengthEn = true ∧ 0 < k.length then ⟨k.enabled && decide (k.length ≠ 1), k.length - 1, k.lengthEn⟩ else k) =
      if p then k.lengthClock else k := by
  have hcond : k.lengthEn = true ∧ 0 < k.length ↔ (k.lengthEn && decide (0 < k.length)) = true := by simp
  have hlast (hpos : 0 < k.length) : decide (k.length ≠ 1) = (k.length - 1 != 0) := by
    rw [Bool.eq_iff_iff, bne_iff_ne, decide_eq_true_eq]
    omega
  rw [ite_and, lengthClock]
  refine if_congr Iff.rfl (if_ctx_congr hcond (fun h => ?_) fun _ => rfl) rfl
  rw [hlast (hcond.mpr h).2]

/-- The volume saturates (R367). -/
theorem volumeStep_eq (up : Bool) (v : BitVec 4) : volumeStep up v =
    if up = true then (if v = 15#4 then 15#4 else v + 1#4) else (if v = 0#4 then 0#4 else v - 1#4) := by
  revert up v
  decide

/-- The envelope clock counts its timer down, and at its end steps the volume and reloads the timer (R367). -/
theorem Envelope.clock_eq (nrc2 : Byte) (e : Envelope) : e.clock nrc2 =
    if e.timer ≤ 1 then
      ⟨if nrc2.toNat % 8 = 0 then e.vol
        else if nrc2.getLsbD 3 = true then (if e.vol = 15#4 then 15#4 else e.vol + 1#4)
        else (if e.vol = 0#4 then 0#4 else e.vol - 1#4),
      if nrc2.toNat % 8 = 0 then 8 else nrc2.toNat % 8⟩
    else { e with timer := e.timer - 1 } := by
  rw [clock, envPeriod_eq, volumeStep_eq]
  simp only [Nat.sub_eq_zero_iff_le]
  rfl

/-! The frame sequencer (R360 to R362). -/

theorem lenMask_iff {n : Nat} (h : n < 8) : lenMask.getLsbD n = true ↔ n ∈ [0, 2, 4, 6] := by
  revert n
  decide

theorem sweepMask_iff {n : Nat} (h : n < 8) : sweepMask.getLsbD n = true ↔ n ∈ [2, 6] := by
  revert n
  decide

theorem envMask_iff {n : Nat} (h : n < 8) : envMask.getLsbD n = true ↔ n = 7 := by
  revert n
  decide

/-- What a tick of the frame sequencer makes of the units, by which of them it clocks; what a sweep clock does to channel 1
and to its frequency is not stated. -/
structure Clocked (lengths sweep envelopes : Bool) (a t : Apu) : Prop where
  c2 : t.c2 = if lengths then a.c2.lengthClock else a.c2
  c3 : t.c3 = if lengths then a.c3.lengthClock else a.c3
  c4 : t.c4 = if lengths then a.c4.lengthClock else a.c4
  length1 : t.c1.length = (if lengths then a.c1.lengthClock else a.c1).length
  lengthEn1 : t.c1.lengthEn = a.c1.lengthEn
  still : sweep = false →
    t.c1 = (if lengths then a.c1.lengthClock else a.c1) ∧ t.registers = a.registers ∧ t.sweep = a.sweep
  nrc2 : t.nr12 = a.nr12 ∧ t.nr22 = a.nr22 ∧ t.nr42 = a.nr42
  e1 : t.e1 = if envelopes then a.e1.clock a.nr12 else a.e1
  e2 : t.e2 = if envelopes then a.e2.clock a.nr22 else a.e2
  e4 : t.e4 = if envelopes then a.e4.clock a.nr42 else a.e4

section
variable {a t : Apu} {l w e : Bool} (b : Bool)

theorem Chan.lengthClock_lengthEn (k : Chan) : k.lengthClock.lengthEn = k.lengthEn := by
  rw [lengthClock]
  split <;> rfl

theorem Apu.sweepCompute_length (a : Apu) :
    (a.sweepCompute b).c1.length = a.c1.length ∧ (a.sweepCompute b).c1.lengthEn = a.c1.lengthEn := by
  simp only [sweepCompute]
  repeat' split
  all_goals exact ⟨rfl, rfl⟩

/-- The sweep clock leaves channel 1's length alone (R381). -/
theorem Apu.sweepClock_length (a : Apu) :
    (a.sweepClock b).c1.length = a.c1.length ∧ (a.sweepClock b).c1.lengthEn = a.c1.lengthEn := by
  simp only [sweepClock]
  split
  · split
    · exact sweepCompute_length b _
    · exact ⟨rfl, rfl⟩
  · exact ⟨rfl, rfl⟩

theorem Clocked.lengths (l : Bool) (a : Apu) : Clocked l false false a (if l then a.lengthClocks else a) := by
  cases l
  · exact ⟨rfl, rfl, rfl, rfl, rfl, fun _ => ⟨rfl, rfl, rfl⟩, ⟨rfl, rfl, rfl⟩, rfl, rfl, rfl⟩
  · exact ⟨rfl, rfl, rfl, rfl, a.c1.lengthClock_lengthEn, fun _ => ⟨rfl, rfl, rfl⟩, ⟨rfl, rfl, rfl⟩, rfl, rfl, rfl⟩

theorem Clocked.andSweep (w : Bool) (h : Clocked l false false a t) :
    Clocked l w false a (if w then t.sweepClock b else t) := by
  cases w
  · exact h
  · obtain ⟨hlength, hlengthEn⟩ := t.sweepClock_length b
    obtain ⟨c1, sweep, nr13, nr14, hframe⟩ := t.sweepClock_frame b
    rw [hframe] at hlength hlengthEn
    rw [if_pos rfl, hframe]
    exact ⟨h.c2, h.c3, h.c4, hlength.trans h.length1, hlengthEn.trans h.lengthEn1, nofun, h.nrc2, h.e1, h.e2, h.e4⟩

theorem Clocked.andEnvelopes (e : Bool) (h : Clocked l w false a t) :
    Clocked l w e a (if e then t.envelopeClocks else t) := by
  cases e
  · exact h
  · obtain ⟨h1, h2, h4⟩ := h.nrc2
    exact ⟨h.c2, h.c3, h.c4, h.length1, h.lengthEn1, h.still, h.nrc2, congrArg₂ Envelope.clock h1 h.e1,
      congrArg₂ Envelope.clock h2 h.e2, congrArg₂ Envelope.clock h4 h.e4⟩

/-- A step clocks the units whose masks name it (R362). -/
theorem Apu.frameStep_clocked (a : Apu) : Clocked (lenMask.getLsbD a.fsStep) (sweepMask.getLsbD a.fsStep)
    (envMask.getLsbD a.fsStep) a (a.frameStep b) := by
  have h := ((Clocked.lengths (lenMask.getLsbD a.fsStep) a).andSweep b (sweepMask.getLsbD a.fsStep)).andEnvelopes
    (envMask.getLsbD a.fsStep)
  exact { h with }

theorem Apu.sequencerTick_of_not_due (h : (a.fsCounter + 1) % 8192 ≠ 0) :
    a.sequencerTick b = { a with fsCounter := (a.fsCounter + 1) % 8192 } := if_neg h

theorem Apu.sequencerTick_of_due (h : (a.fsCounter + 1) % 8192 = 0) :
    a.sequencerTick b = Apu.frameStep b { a with fsCounter := (a.fsCounter + 1) % 8192 } := if_pos h

theorem Apu.sequencerTick_idle (h : ¬ (a.fsCounter + 1) % 8192 = 0) :
    (a.sequencerTick b).fsStep = a.fsStep ∧ (a.sequencerTick b).fsLast = a.fsLast ∧
      (a.sequencerTick b).registers = a.registers ∧ (a.sequencerTick b).sweep = a.sweep := by
  rw [sequencerTick_of_not_due b h]
  exact ⟨rfl, rfl, rfl, rfl⟩

theorem Apu.sequencerTick_step (h : (a.fsCounter + 1) % 8192 = 0) :
    (a.sequencerTick b).fsStep = (a.fsStep + 1) % 8 ∧ (a.sequencerTick b).fsLast = some a.fsStep := by
  rw [sequencerTick_of_due b h]
  exact ⟨rfl, rfl⟩

/-- Of the registers only NR13 and NR14 can change. -/
theorem Apu.sequencerTick_kept (a : Apu) :
    (a.sequencerTick b).fsCounter = (a.fsCounter + 1) % 8192 ∧ (a.sequencerTick b).power = a.power ∧
      (a.sequencerTick b).wave = a.wave ∧ (a.sequencerTick b).registers =
        { a with nr13 := (a.sequencerTick b).nr13, nr14 := (a.sequencerTick b).nr14 }.registers := by
  obtain ⟨_, _, _, _, _, _, _, _, _, _, _, _, hframe⟩ := a.sequencerTick_frame b
  rw [hframe]
  exact ⟨rfl, rfl, rfl, rfl⟩

/-- Only every 8192nd tick takes a step, and the steps clock what R362 lists. -/
theorem Apu.sequencerTick_clocked (hstep : a.fsStep < 8) :
    Clocked (decide ((a.fsCounter + 1) % 8192 = 0 ∧ a.fsStep ∈ [0, 2, 4, 6]))
      (decide ((a.fsCounter + 1) % 8192 = 0 ∧ a.fsStep ∈ [2, 6]))
      (decide ((a.fsCounter + 1) % 8192 = 0 ∧ a.fsStep = 7)) a (a.sequencerTick b) := by
  by_cases hdue : (a.fsCounter + 1) % 8192 = 0
  · have h := frameStep_clocked b { a with fsCounter := (a.fsCounter + 1) % 8192 }
    simp only [hdue, true_and, ← lenMask_iff hstep, ← sweepMask_iff hstep, ← envMask_iff hstep, Bool.decide_eq_true,
      sequencerTick_of_due b hdue]
    rw [hdue] at h
    exact { h with }
  · simp only [hdue, false_and, decide_false, sequencerTick_of_not_due b hdue]
    exact ⟨rfl, rfl, rfl, rfl, rfl, fun _ => ⟨rfl, rfl, rfl⟩, ⟨rfl, rfl, rfl⟩, rfl, rfl, rfl⟩

end

/-! A tick of the APU: the frame sequencer, the generators, the mixer (R361). -/

/-- The generators' part of a tick changes the generators only (R395 to R398). -/
theorem Apu.generatorTick_frame (src : GenSource) (draw : Nat) (a : Apu) : ∃ g1 g2 g3 g4 supplied,
    a.generatorTick src draw = { a with g1 := g1, g2 := g2, g3 := g3, g4 := g4, supplied := supplied } := by
  cases src
  · exact ⟨_, _, _, _, a.supplied, a.generatorTick_standard draw⟩
  · exact ⟨a.g1, a.g2, a.g3, a.g4, _, a.generatorTick_supplied draw⟩

/-- After the frame sequencer and the generators, a tick changes the sample counter and the output trace. -/
theorem exec_tickApu (s : State) : ∃ n tr, exec .tickApu s = .next ((s.setApu
    { Apu.generatorTick s.cfg.gen s.draws (s.apu.sequencerTick s.cfg.sweepSecondCheck) with
      sampleCtr := n }).setTrace tr) := by
  obtain ⟨n, tr, h⟩ := mixerTick_frame (s.setApu
    (Apu.generatorTick s.cfg.gen s.draws (s.apu.sequencerTick s.cfg.sweepSecondCheck)))
  exact ⟨n, tr, congrArg Host.Outcome.next h⟩

/-- Settles O48: the frame sequencer's tick clocks what `Clocked` says; the generators and the mixer touch none of it. -/
theorem frameSequencer : Obligations.FrameSequencer := by
  unfold Obligations.FrameSequencer
  intro s hstep
  obtain ⟨n, tr, hexec⟩ := exec_tickApu s
  obtain ⟨_, _, _, _, _, hgen⟩ :=
    Apu.generatorTick_frame s.cfg.gen s.draws (s.apu.sequencerTick s.cfg.sweepSecondCheck)
  rw [hgen] at hexec
  obtain ⟨hcounter, hpower, hwave, hregisters⟩ := s.apu.sequencerTick_kept s.cfg.sweepSecondCheck
  obtain ⟨hc2, hc3, hc4, hlength1, hlengthEn1, hstill, -, he1, he2, he4⟩ :=
    s.apu.sequencerTick_clocked s.cfg.sweepSecondCheck hstep
  simp only [decide_eq_true_eq, decide_eq_false_iff_not] at hc2 hc3 hc4 hlength1 hstill he1 he2 he4
  refine ⟨_, hexec, rfl, ?_⟩
  simp only [Chan.ite_lengthClock, ← Envelope.clock_eq]
  exact ⟨hcounter, hpower, hwave, hregisters, Apu.sequencerTick_idle _, Apu.sequencerTick_step _, hc2, hc3, hc4,
    hlength1, hlengthEn1, hstill, he1, he2, he4⟩

end Sys2Proof.Machine

namespace Sys2Proof.Machine

/-! The default generators (R396 to R398). -/

theorem squareReload_eq (nrc4 nrc3 : Byte) :
    squareReload nrc4 nrc3 = (2048 - (nrc4.toNat % 8 * 256 + nrc3.toNat)) * 4 := by rw [squareReload, freqOf_toNat]

theorem waveReload_eq (nr34 nr33 : Byte) :
    waveReload nr34 nr33 = (2048 - (nr34.toNat % 8 * 256 + nr33.toNat)) * 2 := by rw [waveReload, freqOf_toNat]

theorem SquareGen.tick_eq (nrc4 nrc3 : Byte) (g : SquareGen) : g.tick (squareReload nrc4 nrc3) =
    if g.ftimer ≤ 1 then ⟨(2048 - (nrc4.toNat % 8 * 256 + nrc3.toNat)) * 4, g.dutyPos + 1#3⟩
    else { g with ftimer := g.ftimer - 1 } := by
  rw [tick, squareReload_eq]
  exact if_congr Nat.sub_eq_zero_iff_le rfl rfl

theorem Apu.waveTable_getD (draw : Nat) (a : Apu) {i : Nat} (h : i < 16) :
    (a.waveTable draw).getD i 0#8 = a.readWave draw i := by
  rw [waveTable, List.getD_eq_getElem _ _ (by simpa using h), List.getElem_map, List.getElem_range, readWave]

theorem WaveGen.tick_eq (draw : Nat) (a : Apu) (g : WaveGen) :
    g.tick (waveReload a.nr34 a.nr33) (a.waveTable draw) =
    if g.ftimer ≤ 1 then
      ⟨(2048 - (a.nr34.toNat % 8 * 256 + a.nr33.toNat)) * 2, g.wavePos + 1#5,
        (let b := a.readWave draw ((g.wavePos + 1#5).toNat / 2)
         if (g.wavePos + 1#5).toNat % 2 = 0 then b.extractLsb' 4 4 else b.extractLsb' 0 4)⟩
    else { g with ftimer := g.ftimer - 1 } := by
  have hpos : (g.wavePos + 1#5).toNat / 2 < 16 := by
    have := (g.wavePos + 1#5).isLt
    omega
  rw [tick, waveReload_eq, ← a.waveTable_getD draw hpos]
  exact if_congr Nat.sub_eq_zero_iff_le rfl rfl

/-- A bit shifted to place `n`. -/
theorem getLsbD_setWidth_ofBool_shiftLeft (b : Bool) (n : Nat) {k : Nat} (hk : k < 15) :
    (BitVec.setWidth 15 (BitVec.ofBool b) <<< n).getLsbD k = (decide (k = n) && b) := by
  have hplace : (!decide (k < n) && decide (k - n = 0)) = decide (k = n) := by
    simp only [← decide_not, ← Bool.decide_and, decide_eq_decide]
    omega
  cases b <;> simp [hk, hplace]

/-- The shift register moves one place down; bit 14, and in the short mode bit 6, take the sum of the two lowest (R398). -/
theorem lfsrStep_getLsbD (short : Bool) (l : BitVec 15) {k : Nat} (hk : k < 15) : (lfsrStep short l).getLsbD k =
    if k = 14 ∨ (k = 6 ∧ short = true) then (l.getLsbD 0 != l.getLsbD 1) else l.getLsbD (k + 1) := by
  have hmask : (1#15 <<< 6).getLsbD k = decide (k = 6) := by
    simpa using getLsbD_setWidth_ofBool_shiftLeft true 6 hk
  have hlong : (l >>> 1 ||| (BitVec.setWidth 15 (BitVec.ofBool (l.getLsbD 0 ^^ l.getLsbD 1)) <<< 14)).getLsbD k =
      if k = 14 then (l.getLsbD 0 != l.getLsbD 1) else l.getLsbD (k + 1) := by
    rw [BitVec.getLsbD_or, getLsbD_setWidth_ofBool_shiftLeft _ _ hk, BitVec.getLsbD_ushiftRight, Nat.add_comm]
    split
    · next h => simp [h]
    · next h => simp [h]
  cases short
  case false => simpa [lfsrStep] using hlong
  case true =>
    simp only [lfsrStep, if_true, BitVec.getLsbD_or, BitVec.getLsbD_and, BitVec.getLsbD_not] at hlong ⊢
    rw [hlong, hmask, getLsbD_setWidth_ofBool_shiftLeft _ _ hk]
    by_cases h6 : k = 6
    · simp [h6]
    · simp [h6, hk]

theorem NoiseGen.tick_of_running {nr43 : Byte} {g : NoiseGen} (h : 1 < g.ftimer) :
    g.tick nr43 = { g with ftimer := g.ftimer - 1 } := if_neg (by omega)

theorem NoiseGen.tick_of_end {nr43 : Byte} {g : NoiseGen} (h : g.ftimer ≤ 1) :
    g.tick nr43 = ⟨noiseReload nr43, lfsrStep (nr43.getLsbD 3) g.lfsr⟩ := if_pos (by omega)

theorem SquareGen.sample_eq (nrc1 : Byte) (vol : BitVec 4) (g : SquareGen) : g.sample nrc1 vol =
    if ([0b00000001#8, 0b10000001#8, 0b10000111#8, 0b01111110#8].getD (nrc1.toNat / 64) 0#8).getLsbD g.dutyPos.toNat = true
    then vol else 0#4 := by
  rw [sample, dutyPattern_eq]

theorem WaveGen.sample_toNat (nr32 : Byte) (g : WaveGen) : (g.sample nr32).toNat =
    g.waveLatch.toNat / 2 ^ ([4, 0, 1, 2].getD (nr32.toNat / 32 % 4) 0) := by
  rw [sample, BitVec.toNat_ushiftRight, waveShift_eq, Nat.shiftRight_eq_div_pow]

/-- Settles O50: the generators tick on what the frame sequencer leaves, and of the generators' registers it can change NR13
and NR14 only. -/
theorem defaultGenerators : Obligations.DefaultGenerators := by
  unfold Obligations.DefaultGenerators
  refine ⟨fun s hgen => ?standard, fun s hgen => ?supplied,
    fun a draw => ⟨SquareGen.sample_eq .., SquareGen.sample_eq .., WaveGen.sample_toNat .., rfl⟩⟩
  case standard =>
    obtain ⟨n, tr, hexec⟩ := exec_tickApu s
    rw [hgen, Apu.generatorTick_standard] at hexec
    obtain ⟨_, _, _, _, _, _, _, _, _, _, _, _, hframe⟩ := s.apu.sequencerTick_frame s.cfg.sweepSecondCheck
    rw [hframe] at hexec
    refine ⟨_, hexec, rfl, SquareGen.tick_eq .., SquareGen.tick_eq .., WaveGen.tick_eq s.draws s.apu _,
      NoiseGen.tick_of_running, fun h => ?_⟩
    dsimp only [State.setTrace_apu, State.setApu_apu]
    rw [NoiseGen.tick_of_end h]
    exact ⟨noiseReload_eq _, fun k => lfsrStep_getLsbD _ _⟩
  case supplied =>
    obtain ⟨n, tr, hexec⟩ := exec_tickApu s
    rw [hgen, Apu.generatorTick_supplied] at hexec
    obtain ⟨_, _, _, _, _, _, _, _, _, _, _, _, hframe⟩ := s.apu.sequencerTick_frame s.cfg.sweepSecondCheck
    rw [hframe] at hexec
    exact ⟨_, hexec, rfl, rfl, rfl, rfl, fun c => by cases c <;> rfl⟩

end Sys2Proof.Machine

namespace Sys2Proof.Machine

/-! A trigger (R370 to R372, R380, R395, R399). -/

theorem onLengthStep_iff (fsLast : Option Nat) : onLengthStep fsLast = true ↔
    fsLast = some 0 ∨ fsLast = some 2 ∨ fsLast = some 4 ∨ fsLast = some 6 := by
  cases fsLast with
  | none => simp [onLengthStep]
  | some n =>
    by_cases hn : n < 8
    · simpa [onLengthStep] using lenMask_iff hn
    · have hoff : lenMask.getLsbD n = false := BitVec.getLsbD_of_ge _ _ (by omega)
      simp only [onLengthStep, hoff, Option.some.injEq, Bool.false_eq_true, false_iff]
      omega

/-- A trigger reloads a zero length, one less on a length-clocking step of an enabled length (R371, R372). -/
theorem Chan.trigger_eq (full : Nat) (fsLast : Option Nat) (k : Chan) : k.trigger full fsLast =
    ⟨true,
      if k.length = 0 then
        (if k.lengthEn = true ∧ (fsLast = some 0 ∨ fsLast = some 2 ∨ fsLast = some 4 ∨ fsLast = some 6) then full - 1
         else full)
      else k.length,
      k.lengthEn⟩ := by
  simp only [trigger, Bool.and_eq_true, onLengthStep_iff]

theorem Envelope.trigger_eq (nrc2 : Byte) : Envelope.trigger nrc2 =
    ⟨nrc2.extractLsb' 4 4, if nrc2.toNat % 8 = 0 then 8 else nrc2.toNat % 8⟩ := by
  rw [trigger, envPeriod_eq]
  rfl

/-- The frequency that a write of NRc4 leaves. -/
theorem freqOf_masked47_toNat (v nrc3 : Byte) : (freqOf (v &&& 0x47#8) nrc3).toNat = v.toNat % 8 * 256 + nrc3.toNat := by
  rw [freqOf_toNat, masked47_mod_eight]

theorem freqOf_masked47 (v nrc3 : Byte) :
    freqOf (v &&& 0x47#8) nrc3 = BitVec.ofNat 11 (v.toNat % 8 * 256 + nrc3.toNat) := by
  rw [← freqOf_masked47_toNat, BitVec.ofNat_toNat, BitVec.setWidth_eq]

theorem sweepOn_iff (nr10 : Byte) : (sweepPeriod nr10 != 0 || sweepShift nr10 != 0) = true ↔
    nr10.toNat / 16 % 8 ≠ 0 ∨ nr10.toNat % 8 ≠ 0 := by
  rw [Bool.or_eq_true, bne_iff_ne, bne_iff_ne, sweepPeriod_eq, sweepShift_eq]

section
variable (src : GenSource) (draw : Nat) (a : Apu)

/-- A channel whose DAC is off is disabled (R368). -/
theorem Apu.dacGate_eq (c : Channel) :
    a.dacGate c = a.setChan c { a.chan c with enabled := (a.chan c).enabled && a.dacOn c } := by
  rw [dacGate]
  split
  · next h =>
    rw [h, Bool.and_true]
    cases c <;> rfl
  · next h =>
    rw [Bool.not_eq_true] at h
    rw [h, Bool.and_false, disable]

/-- The first sweep calculation of a trigger overflows (R380). -/
def Apu.triggerOverflows (a : Apu) : Bool :=
  sweepShift a.nr10 != 0 &&
    sweepOverflow (Apu.sweepCalc { a with sweep := { a.sweep with shadow := freqOf a.nr14 a.nr13 } })

theorem Apu.triggerOverflows_iff : a.triggerOverflows = true ↔
    a.nr10.toNat % 8 ≠ 0 ∧ a.nr10.getLsbD 3 = false ∧
      2047 < (freqOf a.nr14 a.nr13).toNat + (freqOf a.nr14 a.nr13).toNat / 2 ^ (a.nr10.toNat % 8) := by
  have hf := (freqOf a.nr14 a.nr13).isLt
  simp only [triggerOverflows, sweepCalc, sweepOverflow, sweepDown, sweepShift_eq, Nat.shiftRight_eq_div_pow,
    Bool.and_eq_true, bne_iff_ne, decide_eq_true_eq]
  cases a.nr10.getLsbD 3
  · simp
  · have hdown (n : Nat) : ¬ 2047 < (freqOf a.nr14 a.nr13).toNat - n := by omega
    simp [hdown]

/-- A trigger leaves channel 1 enabled if its DAC is on and the first sweep calculation does not overflow (R371, R380). -/
theorem Apu.storeNrc4_ch1_enabled_iff (v : Byte) :
    (!(a.storeNrc4 .ch1 v).triggerOverflows && dacOnEnv a.nr12) = true ↔ 8 ≤ a.nr12.toNat ∧
      ¬ (a.nr10.toNat % 8 ≠ 0 ∧ a.nr10.getLsbD 3 = false ∧ 2047 < v.toNat % 8 * 256 + a.nr13.toNat +
        (v.toNat % 8 * 256 + a.nr13.toNat) / 2 ^ (a.nr10.toNat % 8)) := by
  rw [Bool.and_eq_true, Bool.not_eq_true', ← Bool.not_eq_true, dacOnEnv_iff, and_comm, triggerOverflows_iff]
  simp only [storeNrc4, freqOf_masked47_toNat]

theorem Apu.sweepTrigger_eq : a.sweepTrigger = { a with
    c1 := { a.c1 with enabled := a.c1.enabled && !a.triggerOverflows }
    sweep := ⟨freqOf a.nr14 a.nr13, periodOr8 (sweepPeriod a.nr10), sweepPeriod a.nr10 != 0 || sweepShift a.nr10 != 0⟩ } := by
  rw [sweepTrigger]
  change (if a.triggerOverflows = true then _ else _) = _
  cases a.triggerOverflows
  · rw [Bool.not_false, Bool.and_true]
    rfl
  · rw [Bool.not_true, Bool.and_false]
    rfl

/-- A trigger of channel 1 (R371, R380): of a supplied generator the new state is not stated (R395). -/
theorem Apu.trigger_ch1 : ∃ n, a.trigger src draw .ch1 = { a with
    c1 := ⟨!a.triggerOverflows && dacOnEnv a.nr12, (a.c1.trigger 64 a.fsLast).length, a.c1.lengthEn⟩
    e1 := Envelope.trigger a.nr12
    sweep := ⟨freqOf a.nr14 a.nr13, periodOr8 (sweepPeriod a.nr10), sweepPeriod a.nr10 != 0 || sweepShift a.nr10 != 0⟩
    supplied := if src = .standard then a.supplied else { a.supplied with tok1 := n }
    g1 := if src = .standard then { a.g1 with ftimer := squareReload a.nr14 a.nr13 } else a.g1 } := by
  rw [trigger, dacGate_eq, triggerUnits, sweepTrigger_eq]
  cases src
  · exact ⟨0, rfl⟩
  · exact ⟨_, rfl⟩

theorem Apu.trigger_ch2 : ∃ n, a.trigger src draw .ch2 = { a with
    c2 := ⟨dacOnEnv a.nr22, (a.c2.trigger 64 a.fsLast).length, a.c2.lengthEn⟩
    e2 := Envelope.trigger a.nr22
    supplied := if src = .standard then a.supplied else { a.supplied with tok2 := n }
    g2 := if src = .standard then { a.g2 with ftimer := squareReload a.nr24 a.nr23 } else a.g2 } := by
  rw [trigger, dacGate_eq]
  cases src
  · exact ⟨0, rfl⟩
  · exact ⟨_, rfl⟩

theorem Apu.trigger_ch3 : ∃ n, a.trigger src draw .ch3 = { a with
    c3 := ⟨dacOnWave a.nr30, (a.c3.trigger 256 a.fsLast).length, a.c3.lengthEn⟩
    supplied := if src = .standard then a.supplied else { a.supplied with tok3 := n }
    g3 := if src = .standard then { a.g3 with ftimer := waveReload a.nr34 a.nr33, wavePos := 0#5 } else a.g3 } := by
  rw [trigger, dacGate_eq]
  cases src
  · exact ⟨0, rfl⟩
  · exact ⟨_, rfl⟩

theorem Apu.trigger_ch4 : ∃ n, a.trigger src draw .ch4 = { a with
    c4 := ⟨dacOnEnv a.nr42, (a.c4.trigger 64 a.fsLast).length, a.c4.lengthEn⟩
    e4 := Envelope.trigger a.nr42
    supplied := if src = .standard then a.supplied else { a.supplied with tok4 := n }
    g4 := if src = .standard then ⟨noiseReload a.nr43, 0x7FFF#15⟩ else a.g4 } := by
  rw [trigger, dacGate_eq]
  cases src
  · exact ⟨0, rfl⟩
  · exact ⟨_, rfl⟩

end

/-- A write of NRc4 with bit 7 set stores the byte and triggers the channel (R370). -/
theorem exec_wrNrc4_trigger {s : State} {p : Place} {hb : Bool} {v : Byte} {c : Channel} {a : Apu}
    (hp : s.apu.power = true) (hv : v.getLsbD 7 = true) (h : Reached s p 0 hb)
    (hrule : writePlace p 0 (placeAddr p 0) v hb s = s.setApu (s.apu.writeNrc4 s.cfg.gen s.draws c v))
    (ht : (s.apu.storeNrc4 c v).trigger s.cfg.gen s.draws c = a) :
    exec (.wr hb (placeAddr p 0) v) s = .next (s.setApu a) := by
  rw [exec_wr_ifPower h hrule, if_pos hp, if_pos hv, ht]

/-- Settles O45: each trigger is what `Apu.trigger_ch1` to `Apu.trigger_ch4` say of the stored register. -/
theorem triggers : Obligations.Triggers := by
  unfold Obligations.Triggers
  intro s hb v hp hv
  refine ⟨fun h => ?ch1, fun h => ?ch2, fun h => ?ch3, fun h => ?ch4⟩
  case ch1 =>
    obtain ⟨n, ht⟩ := (s.apu.storeNrc4 .ch1 v).trigger_ch1 s.cfg.gen s.draws
    refine ⟨_, exec_wrNrc4_trigger hp hv h rfl ht, ?enabled, ?on, ?frame⟩
    case enabled => exact s.apu.storeNrc4_ch1_enabled_iff v
    case on => exact sweepOn_iff _
    case frame =>
      simp only [Chan.trigger_eq, Envelope.trigger_eq, squareReload_eq, masked47_mod_eight, State.setApu_apu,
        Apu.storeNrc4, freqOf_masked47, sweepPeriod_eq, periodOr8]
      by_cases hgen : s.cfg.gen = .standard <;> simp only [hgen, if_true, if_false]
  case ch2 =>
    obtain ⟨n, ht⟩ := (s.apu.storeNrc4 .ch2 v).trigger_ch2 s.cfg.gen s.draws
    refine ⟨_, exec_wrNrc4_trigger hp hv h rfl ht, dacOnEnv_iff _, ?_⟩
    simp only [Chan.trigger_eq, Envelope.trigger_eq, squareReload_eq, masked47_mod_eight, State.setApu_apu, Apu.storeNrc4]
    by_cases hgen : s.cfg.gen = .standard <;> simp only [hgen, if_true, if_false]
  case ch3 =>
    obtain ⟨n, ht⟩ := (s.apu.storeNrc4 .ch3 v).trigger_ch3 s.cfg.gen s.draws
    refine ⟨_, exec_wrNrc4_trigger hp hv h rfl ht, Iff.rfl, ?_⟩
    simp only [Chan.trigger_eq, waveReload_eq, masked47_mod_eight, State.setApu_apu, Apu.storeNrc4]
    by_cases hgen : s.cfg.gen = .standard <;> simp only [hgen, if_true, if_false]
  case ch4 =>
    obtain ⟨n, ht⟩ := (s.apu.storeNrc4 .ch4 v).trigger_ch4 s.cfg.gen s.draws
    refine ⟨_, exec_wrNrc4_trigger hp hv h rfl ht, dacOnEnv_iff _, ?_⟩
    simp only [Chan.trigger_eq, Envelope.trigger_eq, noiseReload_eq, State.setApu_apu, Apu.storeNrc4]
    by_cases hgen : s.cfg.gen = .standard <;> simp only [hgen, if_true, if_false]

end Sys2Proof.Machine

namespace Sys2Proof.Machine

/-! The tick fan-out: what the engines' ticks keep, and `IOTICK` cycle by cycle and device by device (R440, R441). -/

section

variable {P : State → Prop} {s : State}

/-- What the updates of the block flags and of the engine's own registers keep, the source's release keeps. -/
theorem releaseSource_keeps (hBus : ∀ b s, P s → P (s.setBus b)) (hDma : ∀ d s, P s → P (s.setDma d)) (h : P s) :
    P (releaseSource s) := by
  simp only [releaseSource, State.setBlocked]
  split
  · exact hDma _ _ (hBus _ s h)
  · exact h

theorem dmaTakeSource_keeps (hBus : ∀ b s, P s → P (s.setBus b)) (hDma : ∀ d s, P s → P (s.setDma d)) (h : P s) :
    P (dmaTakeSource s) := by
  simp only [dmaTakeSource, State.setBlocked]
  split
  · exact hDma _ _ (hBus _ s h)
  · exact h
  · exact h

/-- The work of a tick is a write of OAM or a read of the source, each with the updates that go with it (R284 to R286). -/
theorem dmaWork_keeps (hWrite : ∀ a v s, P s → P (busWrite a v false s)) (hBus : ∀ b s, P s → P (s.setBus b))
    (hDma : ∀ d s, P s → P (s.setDma d)) (c : Nat) (h : P s) : P (dmaWork c s) := by
  simp only [dmaWork]
  split
  · simp only [dmaWriteStep]
    split
    · exact releaseSource_keeps hBus hDma (hDma _ _ (hWrite _ _ s h))
    · exact hDma _ _ (hWrite _ _ s h)
  · split
    · simp only [dmaReadStep, busRead_snd]
      split
      · exact hDma _ _ (hBus _ _ (dmaTakeSource_keeps hBus hDma h))
      · exact hDma _ _ (hBus _ _ h)
    · exact h

/-- What the bus writes of an engine and the updates of its own registers and block flags keep, `TICK_DMA` keeps. -/
theorem tickDma_keeps (hWrite : ∀ a v s, P s → P (busWrite a v false s)) (hBus : ∀ b s, P s → P (s.setBus b))
    (hDma : ∀ d s, P s → P (s.setDma d)) (h : P s) : P (tickDma s) := by
  simp only [tickDma]
  split
  · have hw : P (dmaWork s.dma.cycle s) := dmaWork_keeps hWrite hBus hDma s.dma.cycle h
    split
    · exact releaseSource_keeps hBus hDma (hBus _ _ (hDma _ _ (hDma _ _ hw)))
    · exact hDma _ _ hw
  · exact h

/-- What its bus writes and the updates of its own registers keep, `TICK_HDMA` keeps. -/
theorem tickHdma_keeps (hWrite : ∀ a v s, P s → P (busWrite a v false s)) (hHdma : ∀ e s, P s → P (s.setHdma e))
    (h : P s) : P (tickHdma s) := by
  simp only [tickHdma]
  split
  · exact h
  · exact h
  · split
    · exact hHdma _ s h
    · exact h
  · split
    · exact hHdma _ s h
    · exact h
  · simp only [hdmaReadStep, busRead_snd]
    exact hHdma _ s h
  · exact hHdma _ _ (hWrite _ _ s h)

end

theorem tickDma_cfg (s : State) : (tickDma s).cfg = s.cfg :=
  tickDma_keeps (P := fun t => t.cfg = s.cfg) (fun a v t h => (busWrite_cfg a v false t).trans h) (fun _ _ h => h)
    (fun _ _ h => h) rfl

theorem tickHdma_cfg (s : State) : (tickHdma s).cfg = s.cfg :=
  tickHdma_keeps (P := fun t => t.cfg = s.cfg) (fun a v t h => (busWrite_cfg a v false t).trans h) (fun _ _ h => h) rfl

theorem fastGroup_cfg (s : State) : (fastGroup s).cfg = s.cfg := by
  simp only [fastGroup, tickDma_cfg, tickSerial_frame, tickTimer_frame]

theorem slowGroup_cfg (s : State) : (slowGroup s).cfg = s.cfg := by
  simp only [slowGroup, tickHdma_cfg, tickApu_frame, tickPpu_frame]

/-! Cycle by cycle (R440). -/

section

variable {s : State}

/-- In normal speed every cycle has its slow group. -/
theorem cycleTick_normal (s : State) : cycleTick false s = slowGroup ((fastGroup s).setHalfPhase false) := rfl

/-- In double speed the first cycle of two has none, and marks the half phase. -/
theorem cycleTick_first (h : s.halfPhase = false) : cycleTick true s = (fastGroup s).setHalfPhase true := by
  simp [cycleTick, fastGroup_halfPhase, h]

theorem cycleTick_second (h : s.halfPhase = true) :
    cycleTick true s = slowGroup ((fastGroup s).setHalfPhase false) := by
  simp [cycleTick, fastGroup_halfPhase, h]

theorem cycleTick_cfg (ds : Bool) (s : State) : (cycleTick ds s).cfg = s.cfg := by
  simp only [cycleTick]
  split
  · split
    · exact (slowGroup_cfg _).trans (fastGroup_cfg s)
    · exact fastGroup_cfg s
  · exact (slowGroup_cfg _).trans (fastGroup_cfg s)

/-- The cycle-by-cycle `IOTICK` is its first cycle and then the others. -/
theorem ioTick_succ (hc : s.cfg.tickInterleave = .perCycle) (n : Nat) (ds : Bool) :
    ioTick (n + 1) ds s = ioTick n ds (cycleTick ds s) := by
  simp only [ioTick, hc, cycleTick_cfg, repeatN_succ]

theorem toNat_pred_add_one {n : BitVec 16} (hn : n ≠ 0#16) : (n - 1#16).toNat + 1 = n.toNat := by
  bv_omega

theorem exec_iotick_perCycle {n : BitVec 16} (hc : s.cfg.tickInterleave = .perCycle) (hn : n ≠ 0#16) :
    exec (.iotick n) s = exec (.iotick (n - 1#16)) (cycleTick false s) := by
  simp only [exec, execIotick, ← toNat_pred_add_one hn, ioTick_succ hc]

theorem exec_iotick2_perCycle {n : BitVec 16} (hc : s.cfg.tickInterleave = .perCycle) (hn : n ≠ 0#16) :
    exec (.iotick2 n) s = exec (.iotick2 (n - 1#16)) (cycleTick true s) := by
  simp only [exec, execIotick2, ← toNat_pred_add_one hn, ioTick_succ hc]

end

/-! Device by device (R441). -/

/-- A list of operations that answers a next state goes on with what follows it. -/
theorem execAll_append {is js : List Instr} {s t : State} (h : execAll is s = .next t) :
    execAll (is ++ js) s = execAll js t := by
  induction is generalizing s with
  | nil =>
    obtain rfl : s = t := Host.Outcome.next.inj h
    rfl
  | cons i is ih =>
    obtain ⟨u, hu, -⟩ := exec_result i s
    simp only [List.cons_append, execAll, hu] at h ⊢
    exact ih h

/-- Three devices, each ticked `n` times before the next one. -/
theorem execAll_threeDevices {i j k : Instr} {f g h : State → State} (hi : ∀ s, exec i s = .next (f s))
    (hj : ∀ s, exec j s = .next (g s)) (hk : ∀ s, exec k s = .next (h s)) (n : Nat) (s : State) :
    execAll (List.replicate n i ++ List.replicate n j ++ List.replicate n k) s =
      .next (repeatN n h (repeatN n g (repeatN n f s))) := by
  rw [List.append_assoc, execAll_append (execAll_replicate hi n s), execAll_append (execAll_replicate hj n _),
    execAll_replicate hk]

/-- The fast devices of a group of `n` cycles. -/
def fastDevices (n : Nat) (s : State) : State := repeatN n tickDma (repeatN n tickSerial (repeatN n tickTimer s))

/-- The slow devices of a group, for `k` of its cycles. -/
def slowDevices (k : Nat) (s : State) : State := repeatN k tickHdma (repeatN k tickApu (repeatN k tickPpu s))

theorem execAll_fastDevices (n : Nat) (s : State) :
    execAll (List.replicate n .tickTimer ++ List.replicate n .tickSerial ++ List.replicate n .tickDma) s =
      .next (fastDevices n s) :=
  execAll_threeDevices (fun _ => rfl) (fun _ => rfl) (fun _ => rfl) n s

theorem execAll_slowDevices (k : Nat) (s : State) :
    execAll (List.replicate k .tickPpu ++ List.replicate k .tickApu ++ List.replicate k .tickHdma) s =
      .next (slowDevices k s) :=
  execAll_threeDevices (fun _ => rfl) (fun _ => rfl) (fun _ => rfl) k s

theorem ioTick_perGroup {s : State} (hg : s.cfg.tickInterleave = .perGroup) (n : Nat) (ds : Bool) :
    ioTick n ds s = slowDevices (slowCalls n ds s.halfPhase)
      ((fastDevices n s).setHalfPhase (halfPhaseAfter n ds s.halfPhase)) := by
  simp only [ioTick, hg]
  rfl

/-- Settles O53: an `IOTICK` of some cycles is its first cycle and an `IOTICK` of the rest, or its fast devices and then the
slow ones, as often as the half phase says. -/
theorem iotickExpands : Obligations.IotickExpands := by
  unfold Obligations.IotickExpands
  refine ⟨fun s n => ⟨⟨_, rfl⟩, ⟨_, rfl⟩⟩, fun s => ⟨congrArg _ (ioTick_zero false s), congrArg _ (ioTick_zero true s)⟩,
    fun s n hc hn => ?perCycle, fun s n hg hn => ?perGroup⟩
  case perCycle =>
    refine ⟨fastGroup s, rfl, ⟨_, rfl, exec_iotick_perCycle hc hn, fun hp => ?second⟩, fun hp => ?first⟩
    case second =>
      rw [exec_iotick2_perCycle hc hn, cycleTick_second hp]
      rfl
    case first => rw [exec_iotick2_perCycle hc hn, cycleTick_first hp]
  case perGroup =>
    have h0 : n.toNat ≠ 0 := by bv_omega
    have hodd : n.toNat + (if s.halfPhase = true then 1 else 0) = n.toNat + s.halfPhase.toNat := by
      cases s.halfPhase <;> rfl
    refine ⟨fastDevices n.toNat s, execAll_fastDevices n.toNat s, ?normal, ?double⟩
    case normal =>
      simp only [exec, execIotick, execAll_slowDevices, ioTick_perGroup hg, slowCalls, halfPhaseAfter, h0, if_false,
        Bool.false_eq_true]
    case double =>
      simp only [exec, execIotick2, execAll_slowDevices, ioTick_perGroup hg, slowCalls, halfPhaseAfter, h0, if_false,
        if_true, hodd]

end Sys2Proof.Machine

namespace Sys2Proof.Machine

/-! The interrupt's dispatch (R467, R470 to R473, R476). -/

/-- The CPU but for the registers that the bus reaches: IF, IE and the speed switch's own state. -/
def Cpu.offBus (c : Cpu) : Cpu := { c with ifr := 0#8, ie := 0#8, speedToken := 0 }

theorem busWrite_offBus (a : Addr) (v : Byte) (hb : Bool) (s : State) :
    (busWrite a v hb s).cpu.offBus = s.cpu.offBus := by
  obtain ⟨_, _, _, h⟩ := busWrite_cpu a v hb s
  rw [h]
  rfl

/-- An interrupt request reaches IF alone. -/
theorem offBus_of_ifr {c d : Cpu} (h : ∃ ifr, d = { c with ifr := ifr }) : d.offBus = c.offBus := by
  obtain ⟨_, rfl⟩ := h
  rfl

theorem ioTick_offBus (n : Nat) (ds : Bool) (s : State) : (ioTick n ds s).cpu.offBus = s.cpu.offBus := by
  have hWrite : ∀ a v t, t.cpu.offBus = s.cpu.offBus → (busWrite a v false t).cpu.offBus = s.cpu.offBus :=
    fun a v t h => (busWrite_offBus a v false t).trans h
  refine ioTick_keeps (P := fun t => t.cpu.offBus = s.cpu.offBus) ?timer ?serial ?dma ?ppu ?apu ?hdma ?half n ds rfl
  case timer => exact fun t h => (offBus_of_ifr (tickTimer_cpu t)).trans h
  case serial => exact fun t h => (offBus_of_ifr (tickSerial_cpu t)).trans h
  case dma => exact fun t => tickDma_keeps hWrite (fun _ _ h => h) (fun _ _ h => h)
  case ppu => exact fun t h => (offBus_of_ifr (tickPpu_cpu t)).trans h
  case apu => exact fun t h => by simpa [tickApu_frame] using h
  case hdma => exact fun t => tickHdma_keeps hWrite (fun _ _ h => h)
  case half => exact fun _ _ h => h

theorem takeStall_offBus (s : State) : (takeStall s).cpu.offBus = s.cpu.offBus := by
  simp only [takeStall]
  split <;> exact ioTick_offBus ..

/-! Which interrupt, and the CPU that takes it. -/

theorem lowestBit_eq {b : Byte} {n : Nat} (hn : n < 5) (hb : b.getLsbD n = true)
    (hlow : ∀ m, m < n → ¬ b.getLsbD m = true) : lowestBit b = n := by
  simp only [Bool.not_eq_true] at hlow
  interval_cases n <;> simp only [lowestBit, hb, hlow, Nat.reduceLT, if_true, if_false, Bool.false_eq_true]

theorem Cpu.pendingEnabled_getLsbD (c : Cpu) {n : Nat} (hn : n < 5) :
    c.pendingEnabled.getLsbD n = true ↔ c.ie.getLsbD n = true ∧ c.ifr.getLsbD n = true := by
  have hm : (0x1F#8).getLsbD n = true := by
    interval_cases n <;> rfl
  simp [Cpu.pendingEnabled, hm]

/-- Interrupt `n` is the one that is taken where it and none below it is both pending and enabled (R467). -/
theorem Cpu.lowestBit_pendingEnabled {c : Cpu} {n : Nat} (hn : n < 5) (he : c.ie.getLsbD n = true)
    (hr : c.ifr.getLsbD n = true) (hlow : ∀ m, m < n → ¬ (c.ie.getLsbD m = true ∧ c.ifr.getLsbD m = true)) :
    lowestBit c.pendingEnabled = n :=
  lowestBit_eq hn ((c.pendingEnabled_getLsbD hn).mpr ⟨he, hr⟩) fun m hm h =>
    hlow m hm ((c.pendingEnabled_getLsbD (hm.trans hn)).mp h)

/-- A CPU that is not in a service routine runs once it is awake, an armed switch toggling the mode as STOP exits. -/
theorem Cpu.wake_eq {c : Cpu} (h : c.run ≠ .servicingInterrupt) : c.wake = { c with
    run := .running
    doubleSpeed := if c.run = .stopped then (c.doubleSpeed != c.switchArmed) else c.doubleSpeed
    switchArmed := if c.run = .stopped then false else c.switchArmed } := by
  obtain ⟨af, bc, de, hl, ifr, ie, ime, run, pc, sp, speed, armed, bug, token⟩ := c
  cases run with
  | running | halted => rfl
  | stopped => cases speed <;> cases armed <;> rfl
  | servicingInterrupt => exact absurd rfl h

/-! The routine. -/

section

variable (n : Nat) (s : State)

theorem pushPc_offBus : (pushPc s).cpu.offBus = { s.cpu.offBus with sp := s.cpu.sp - 2#16 } := by
  have h := (busWrite_offBus (s.cpu.sp - 2#16) (s.cpu.pc.extractLsb' 0 8) true
    (busWrite (s.cpu.sp - 1#16) (s.cpu.pc.extractLsb' 8 8) true s)).trans (busWrite_offBus ..)
  exact congrArg (fun c : Cpu => { c with sp := s.cpu.sp - 2#16 }) h

theorem enterInterrupt_offBus : (enterInterrupt n s).cpu.offBus = { s.cpu.offBus with
    run := .servicingInterrupt, sp := s.cpu.sp - 2#16, pc := vectorOf n, ime := false } :=
  congrArg (fun c : Cpu => { c with pc := vectorOf n, ime := false })
    (pushPc_offBus (s.setCpu { s.cpu with run := .servicingInterrupt }))

theorem serviceInterrupt_offBus : (serviceInterrupt n s).cpu.offBus = { s.cpu.offBus with
    run := .running, sp := s.cpu.sp - 2#16, pc := vectorOf n, ime := false } :=
  congrArg (fun c : Cpu => { c with run := .running }) ((ioTick_offBus ..).trans (enterInterrupt_offBus n s))

/-- The routine raises no fault and takes no input. -/
theorem serviceInterrupt_frame :
    (serviceInterrupt n s).fault = s.fault ∧ (serviceInterrupt n s).pending = s.pending := by
  simp [serviceInterrupt, ioTick_frame, enterInterrupt, pushPc]

/-- The routine as operations of the block: two writes push the PC, and an `IOTICK` feeds its cycles on (R472). -/
theorem serviceInterrupt_expands : ∃ u w,
    execAll [.wr true (s.cpu.sp - 1#16) (s.cpu.pc.extractLsb' 8 8), .wr true (s.cpu.sp - 2#16) (s.cpu.pc.extractLsb' 0 8)]
      (s.setCpu { s.cpu with run := .servicingInterrupt }) = .next u ∧
    exec (if s.cpu.doubleSpeed = true then .iotick2 20#16 else .iotick 20#16) (u.setCpu { u.cpu with
      sp := s.cpu.sp - 2#16, pc := vectorOf n, ime := false, ifr := u.cpu.ifr &&& ~~~(1#8 <<< n) }) = .next w ∧
    serviceInterrupt n s = w.setCpu { w.cpu with run := .running } := by
  have hspeed : (enterInterrupt n s).cpu.doubleSpeed = s.cpu.doubleSpeed :=
    (congrArg Cpu.doubleSpeed (enterInterrupt_offBus n s) :)
  exact ⟨_, _, rfl, hspeed ▸ exec_ioTick 20#16 (enterInterrupt n s), rfl⟩

end

/-! The step. -/

section

variable {s : State} {rest : List Input}

/-- The input that takes the stall, put before the inputs that are waiting (R308). -/
theorem step_takeStall (hf : s.fault = none) (hp : s.pending = rest) :
    step (s.setPending (.takeStall :: rest)) = .next (takeStall s) := by
  rw [step_external (s := s.setPending (.takeStall :: rest)) hf rfl nofun, State.setPending_twice,
    State.setPending_of_pending hp, externalEffect]

/-- Under the master enable either input of the CPU is the dispatch, and then the run of the stall it has caused (R445). -/
theorem step_of_services {x : Input} (hf : s.fault = none) (h0 : s.hdma.stall = 0) (hp : s.pending = x :: rest)
    (hx : x = .cpuService ∨ ∃ acts cycles idle, x = .cpuTick acts cycles idle) (hs : s.cpu.services = true) :
    step s = .next (takeStall (serviceInterrupt (lowestBit s.cpu.pendingEnabled)
      ((s.setPending rest).setCpu s.cpu.wake))) := by
  have hserv : step (s.setPending (.cpuService :: rest)) = .next (takeStall (serviceInterrupt
      (lowestBit s.cpu.pendingEnabled) ((s.setPending rest).setCpu s.cpu.wake))) := by
    rw [step_external (s := s.setPending (.cpuService :: rest)) hf rfl nofun, State.setPending_twice, externalEffect,
      cpuStep, takeStall_of_zero (s := s.setPending rest) h0, cpuService_of_services (s := s.setPending rest) hs]
    rfl
  obtain rfl | ⟨acts, cycles, idle, rfl⟩ := hx
  · rwa [State.setPending_of_pending hp] at hserv
  · rw [step_cpuTick_of_services hf h0 hp hs, hserv]

end

/-- Settles O56: the step is the routine on the woken CPU; the routine expands into operations, and no tick reaches a
register of the CPU that is not on the bus. -/
theorem interruptDispatch : Obligations.InterruptDispatch := by
  unfold Obligations.InterruptDispatch
  intro s x rest n hf hp hx hime hrun h0 hn he hr hlow speed armed
  let a := (s.setPending rest).setCpu { s.cpu with run := .running, doubleSpeed := speed, switchArmed := armed }
  have hstep : step s = .next (takeStall (serviceInterrupt n a)) := by
    rw [step_of_services hf h0 hp hx ((Cpu.services_iff _).mpr ⟨⟨n, hn, he, hr⟩, hime⟩),
      Cpu.lowestBit_pendingEnabled hn he hr hlow, Cpu.wake_eq hrun]
  obtain ⟨hfv, hpv⟩ := serviceInterrupt_frame n a
  obtain ⟨u, w, hu, hw, hv⟩ := serviceInterrupt_expands n a
  have ht := (takeStall_offBus (serviceInterrupt n a)).trans (serviceInterrupt_offBus n a)
  refine ⟨u, w, serviceInterrupt n a, takeStall (serviceInterrupt n a), hu, hw, hv,
    hstep.trans (step_takeStall (hfv.trans hf) hpv).symm, fun hz => hstep.trans (congrArg _ (takeStall_of_zero hz)), hstep,
    ?pc, congrArg Cpu.sp ht, congrArg Cpu.ime ht, congrArg Cpu.doubleSpeed ht, congrArg Cpu.switchArmed ht⟩
  case pc =>
    have hpc : (takeStall (serviceInterrupt n a)).cpu.pc = vectorOf n := congrArg Cpu.pc ht
    rw [hpc, vectorOf, BitVec.toNat_ofNat]
    omega

end Sys2Proof.Machine

namespace Sys2Proof.Machine

/-! A step on an operation word (R129, R446). -/

/-- Outside the fault state an operation word runs the operation it decodes to. -/
theorem step_word {s : State} {w : Word} {rest : List Input} {i : Instr} (hf : s.fault = none)
    (hp : s.pending = .word w :: rest) (hd : decode w = .ok i) : step s = exec i (s.setPending rest) := by
  simp only [step, hp, acceptInput, acceptWord, hd, acceptInstr, State.setPending_fault, hf]

/-- A reserved word is refused in every state. -/
theorem step_reserved {s : State} {w : Word} {rest : List Input} {r : Reject}
    (hp : s.pending = .word w :: rest) (hd : decode w = .error r) : step s = .refused (.reservedWord r) := by
  simp only [step, hp, acceptInput, acceptWord, hd]

theorem step_idle {s : State} (hp : s.pending = []) : step s = .next s := by
  simp only [step, hp]

/-- What the table's decoder reads from a word, the machine's reads from its low 30 bits. -/
theorem decode_of_decodeTableWord {nbits w : Nat} {i : Instr} (h : decodeTableWord nbits w = some i) :
    decode (BitVec.ofNat 30 (w % 2 ^ nbits)) = .ok i := by
  simp only [decodeTableWord] at h
  split at h
  · next j hj =>
    obtain rfl : j = i := Option.some.inj h
    simp only [decodeNat] at hj
    split at hj
    · exact hj
    · cases hj
  · cases h

/-- Settles O5: the cases of the first input; a word of the table is the input that comes next. -/
theorem stepRunsDecodedOperation : Obligations.StepRunsDecodedOperation := by
  unfold Obligations.StepRunsDecodedOperation
  refine ⟨fun s w rest hp => ⟨fun i hd hf => step_word hf hp hd, fun r hd => step_reserved hp hd⟩, fun s => step_idle,
    fun s nbits w i hf hd => ?_⟩
  rw [step_word (s := s.withFetchWord nbits w) hf rfl (decode_of_decodeTableWord hd)]
  rfl

end Sys2Proof.Machine

namespace Sys2Proof.Machine

/-! The machine at reset, and the fault state (R460, R501). -/

/-- Settles O58: the machine starts at power-on, which meets the invariant in every configuration. -/
theorem invAtReset : Obligations.InvAtReset := Inv.powerOn Config.default

/-- Settles O7: `resetBlock` puts the block at power-on; a memory with no cell written reads its free values. -/
theorem resetValues : Obligations.ResetValues := by
  unfold Obligations.ResetValues
  intro s
  have hregs : ∀ r ∈ (resetBlock s).apu.registers, r = 0#8 := by
    simp [resetBlock_eq, State.powerOn, Apu.reset, Apu.registers]
  have hchan (c : Channel) : (resetBlock s).apu.chan c = ⟨false, 0, false⟩ := by cases c <;> rfl
  refine ⟨resetBlock s, rfl, ?_⟩
  and_intros
  any_goals exact hregs
  any_goals exact hchan
  all_goals intros; rfl

/-- Settles O6: `acceptWord` and `acceptInput` look at the fault state; `RESET` is the one operation they let through. -/
theorem faultStateAcceptsResetOnly : Obligations.FaultStateAcceptsResetOnly := by
  unfold Obligations.FaultStateAcceptsResetOnly
  intro s f x rest hf hp
  refine ⟨?reset, ?otherWord, ?act⟩
  case reset =>
    rintro w rfl hd
    simp [step, hp, acceptInput, acceptWord, hd, acceptInstr, hf]
  case otherWord =>
    rintro w i rfl hd hi
    simp [step, hp, acceptInput, acceptWord, hd, acceptInstr, hf, hi]
  case act =>
    intro hx
    cases x with
    | word w => exact absurd rfl (hx w)
    | _ => simp [step, hp, acceptInput, hf]

end Sys2Proof.Machine

namespace Sys2Proof

/-! The reserved words, format by format (R129). -/

section

variable {w : Word}

theorem decodeIotick_reserved_iff : (∃ r, decodeIotick w = .error r) ↔ w.extractLsb' 17 9 ≠ 0#9 := by
  rw [decodeIotick]
  split
  · next hz => split <;> simp [hz]
  · next hz => simp [hz]

theorem decodeBlock_reserved_iff : (∃ r, decodeBlock w = .error r) ↔ w.extractLsb' 2 24 ≠ 0#24 := by
  rw [decodeBlock]
  split <;> simp [*]

/-- The handler ids end at 10 (R124). -/
theorem HandlerId.ofBits_eq_none_iff (b : BitVec 4) : HandlerId.ofBits b = none ↔ 10 < b.toNat := by
  revert b
  decide

theorem decodeHandler_reserved_iff (cls : BitVec 4) (mk : HandlerId → Instr) : (∃ r, decodeHandler cls mk w = .error r) ↔
    w.extractLsb' 4 22 ≠ 0#22 ∨ 10 < (w.extractLsb' 0 4).toNat := by
  rw [decodeHandler, ← HandlerId.ofBits_eq_none_iff]
  split
  · next hz => cases hh : HandlerId.ofBits (w.extractLsb' 0 4) <;> simp [hz]
  · next hz => simp [hz]

theorem decodeReset_reserved_iff : (∃ r, decodeReset w = .error r) ↔ w.extractLsb' 0 26 ≠ 0#26 := by
  rw [decodeReset]
  split <;> simp [*]

theorem decodeDevtick_reserved_iff : (∃ r, decodeDevtick w = .error r) ↔
    w.extractLsb' 3 23 ≠ 0#23 ∨ 6 ≤ (w.extractLsb' 0 3).toNat := by
  rw [decodeDevtick]
  split
  · next hz =>
    split
    case h_7 =>
      simp only [imp_false] at *
      exact iff_of_true ⟨_, rfl⟩ (.inr (by omega))
    all_goals next hn => simp [hz, hn]
  · next hz => simp [hz]

end

/-- Settles O4: class by class, the words that the class's decoder refuses. -/
theorem reservedWordsExactly : Obligations.ReservedWordsExactly := by
  unfold Obligations.ReservedWordsExactly
  intro w
  have hclass {n : Nat} (hn : (wordClass w).toNat = n) : wordClass w = BitVec.ofNat 4 n := eq_ofNat_of_toNat hn
  simp only [decode]
  split
  case h_1 hn => simp [hclass hn]
  case h_2 hn => simp [hclass hn, decodeIotick_reserved_iff]
  case h_3 hn => simp [hclass hn, decodeBlock_reserved_iff]
  case h_4 hn => simp [hclass hn, decodeHandler_reserved_iff]
  case h_5 hn => simp [hclass hn, decodeHandler_reserved_iff]
  case h_6 hn => simp [hclass hn, decodeReset_reserved_iff]
  case h_7 hn => simp [hclass hn, decodeDevtick_reserved_iff]
  case h_8 =>
    simp only [imp_false] at *
    refine iff_of_true ⟨_, rfl⟩ (.inl ?_)
    rw [← BitVec.toNat_inj]
    show (wordClass w).toNat = 6 ∨ _
    omega

end Sys2Proof

namespace Sys2Proof.Machine

/-! The APU's writes that change more than a register (R366 to R370, R423, R424). -/

theorem lengthLoad64_eq (v : Byte) : lengthLoad64 v = 64 - v.toNat % 64 := by
  rw [lengthLoad64, BitVec.extractLsb'_toNat, Nat.shiftRight_zero]

theorem dacOnEnv_eq (v : Byte) : dacOnEnv v = decide (8 ≤ v.toNat) := by
  rw [Bool.eq_iff_iff, dacOnEnv_iff, decide_eq_true_eq]

theorem dacOnWave_eq (v : Byte) : dacOnWave v = decide (128 ≤ v.toNat) := by
  revert v
  decide

/-- With the power on, a write that reaches a register stores what the register's rule makes of the APU (R423). -/
theorem exec_wr_powered {s : State} {p : Place} {hb : Bool} {v : Byte} {a a' : Apu} (hon : s.apu.power = true)
    (h : Reached s p 0 hb) (hrule : writePlace p 0 (placeAddr p 0) v hb s = s.setApu (s.apu.ifPower a)) (ha : a = a') :
    exec (.wr hb (placeAddr p 0) v) s = .next (s.setApu a') := by
  rw [exec_wr_ifPower h hrule, if_pos hon, ha]

/-- Settles O44: each rule is a store under the power's gate: of the length, of the DAC's register with its gate, of NRc4. -/
theorem channelRegisterWrites : Obligations.ChannelRegisterWrites := by
  unfold Obligations.ChannelRegisterWrites
  refine ⟨fun s hb v hon => ?length, fun s hb v hon => ?dac, fun s hb v hon h7 => ?lengthEnable⟩
  case length =>
    rw [← lengthLoad64_eq]
    exact ⟨fun h => exec_wr_powered hon h rfl rfl, fun h => exec_wr_powered hon h rfl rfl,
      fun h => exec_wr_powered hon h rfl rfl, fun h => exec_wr_powered hon h rfl rfl⟩
  case dac =>
    rw [← dacOnEnv_eq, ← dacOnWave_eq]
    exact ⟨fun h => exec_wr_powered hon h rfl (Apu.dacGate_eq _ .ch1), fun h => exec_wr_powered hon h rfl (Apu.dacGate_eq _ .ch2),
      fun h => exec_wr_powered hon h rfl (Apu.dacGate_eq _ .ch3), fun h => exec_wr_powered hon h rfl (Apu.dacGate_eq _ .ch4)⟩
  case lengthEnable =>
    have hstore (c : Channel) : (if v.getLsbD 7 = true then (s.apu.storeNrc4 c v).trigger s.cfg.gen s.draws c
        else s.apu.storeNrc4 c v) = s.apu.storeNrc4 c v := if_neg (Bool.eq_false_iff.mp h7)
    exact ⟨fun h => exec_wr_powered hon h rfl (hstore .ch1), fun h => exec_wr_powered hon h rfl (hstore .ch2),
      fun h => exec_wr_powered hon h rfl (hstore .ch3), fun h => exec_wr_powered hon h rfl (hstore .ch4)⟩

/-! The power switch (R423). -/

theorem Apu.writeNr52_of_off {a : Apu} {v : Byte} (ha : a.power = true) (hv : v.getLsbD 7 = false) :
    a.writeNr52 v = a.powerOff := by
  rw [writeNr52, ha, hv]
  rfl

theorem Apu.writeNr52_of_on {a : Apu} {v : Byte} (ha : a.power = false) (hv : v.getLsbD 7 = true) :
    a.writeNr52 v = { a with power := true } := by
  rw [writeNr52, ha, hv]
  rfl

theorem Apu.writeNr52_of_same {a : Apu} {v : Byte} (h : a.power = v.getLsbD 7) : a.writeNr52 v = a := by
  simp [writeNr52, h]

/-- Settles O46: a write of NR52 switches the power off, on, or not at all. -/
theorem powerSwitch : Obligations.PowerSwitch := by
  unfold Obligations.PowerSwitch
  intro s hb v hr
  have hexec {a : Apu} (h : s.apu.writeNr52 v = a) : exec (.wrNr52 hb v) s = .next (s.setApu a) :=
    (exec_wr_reached v hr).trans (congrArg (fun a => Host.Outcome.next (s.setApu a)) h)
  refine ⟨fun hon hv => ⟨_, hexec (Apu.writeNr52_of_off hon hv), rfl, ?registers, ?channels, ?kept⟩,
    fun hoff hv => hexec (Apu.writeNr52_of_on hoff hv), fun h => hexec (Apu.writeNr52_of_same h)⟩
  case registers => simp [Apu.registers, Apu.powerOff]
  case channels => intro c; cases c <;> rfl
  case kept => and_intros <;> rfl

/-! The wave table (R424). -/

/-- Settles O47: both accesses reach the table under no gate, and a write inserts its own byte. -/
theorem waveReadAndWrite : Obligations.WaveReadAndWrite := by
  unfold Obligations.WaveReadAndWrite
  intro s hb i v hr
  exact ⟨exec_rd_reached hr, _, exec_wr_reached v hr, rfl, fun j => readCell_insert .wave s.draws s.apu.wave i.toNat j v⟩

/-! The serial device's tick (R447). -/

/-- Settles O54: an attached device moves on, and its request is interrupt 3. -/
theorem tickSerialEffect : Obligations.TickSerialEffect := by
  unfold Obligations.TickSerialEffect
  intro s
  have hexec : exec .tickSerial s = .next (tickSerial s) := rfl
  rw [hexec]
  cases ha : s.cfg.serialAttached with
  | false =>
    have ht : tickSerial s = s := by simp [tickSerial, ha]
    rw [ht]
    exact ⟨fun _ => rfl, s, rfl, rfl, .inl rfl⟩
  | true =>
    refine ⟨nofun, tickSerial s, rfl, ?_⟩
    simp only [tickSerial, ha, if_true]
    split
    · exact ⟨rfl, .inr rfl⟩
    · exact ⟨rfl, .inl rfl⟩

/-! A tick of the HDMA engine (R312, R313). -/

/-- The destination cursor counts on modulo the size of VRAM. -/
theorem hdmaNextDst_eq (vramBase dst : Addr) :
    hdmaNextDst vramBase dst = vramBase + BitVec.ofNat 16 (((dst - vramBase).toNat + 1) % 0x2000) := by
  have hmask (x : Addr) : x &&& 0x1FFF#16 = BitVec.ofNat 16 (x.toNat % 0x2000) := by
    apply BitVec.eq_of_toNat_eq
    rw [BitVec.toNat_and, BitVec.toNat_ofNat, BitVec.toNat_ofNat]
    have := Nat.and_two_pow_sub_one_eq_mod x.toNat 13
    simp only [Nat.reducePow, Nat.reduceSub] at this
    rw [this]
    omega
  have hmod : (dst - vramBase + 1#16).toNat % 0x2000 = ((dst - vramBase).toNat + 1) % 0x2000 := by
    rw [BitVec.toNat_add]
    exact Nat.mod_mod_of_dvd _ (by decide)
  rw [hdmaNextDst, hmask, hmod]

theorem hdmaNextState_eq (m : HdmaMode) (n : Nat) : hdmaNextState m n =
    if n = 0 then .idle else if m = .hblank ∧ n % 16 = 0 then .waitNotHBlank else .read := by
  simp only [hdmaNextState, Bool.and_eq_true, beq_iff_eq, decide_eq_true_eq]

/-- Settles O38: `tickHdma` by the engine's state; a byte is written by the bus, and then the engine moves on. -/
theorem tickHdmaByState : Obligations.TickHdmaByState := by
  unfold Obligations.TickHdmaByState
  intro s
  have hexec {t : State} (h : tickHdma s = t) : exec .tickHdma s = .next t := congrArg Host.Outcome.next h
  refine ⟨?rest, fun hs => hexec ?waitHBlank, fun hs => hexec ?waitNotHBlank, fun hs => ?read, fun hs => ?write⟩
  case rest => rintro (hs | hs) <;> exact hexec (by rw [tickHdma, hs])
  case waitHBlank => simp only [tickHdma, hs, beq_iff_eq]
  case waitNotHBlank => simp only [tickHdma, hs, bne_iff_ne, ite_not]
  case read => exact ⟨s.hdmaByte, exec_rd .., hexec (tickHdma_of_read hs)⟩
  case write =>
    refine ⟨_, hdmaWriteStep s, rfl, hexec (by rw [tickHdma, hs]), rfl, ?_⟩
    rw [← hdmaNextDst_eq, ← hdmaNextState_eq]
    rfl

end Sys2Proof.Machine

namespace Sys2Proof.Machine

/-! The mixed pixel and its colour (R261, R262). -/

section

variable {m : HwMode} {p : Ppu} {bg sp : Pixel}

theorem Ppu.backgroundOff_iff : p.backgroundOff m = true ↔ m = .dmg ∧ p.lcdc.getLsbD 0 = false := by
  simp [backgroundOff, lcdcBit0]

theorem Ppu.spriteWins_iff : p.spriteWins m bg sp = true ↔
    sp.colorIndex ≠ 0#2 ∧ p.lcdc.getLsbD 1 = true ∧
      ((p.backgroundOff m = true ∨ bg.colorIndex = 0#2) ∨ (m = .cgb ∧ p.lcdc.getLsbD 0 = false) ∨
        (sp.backgroundPriority = false ∧ ¬ (m = .cgb ∧ bg.backgroundPriority = true))) := by
  simp only [spriteWins, Bool.and_eq_true, Bool.or_eq_true, bne_iff_ne, beq_iff_eq, spritesEnabled,
    lcdcBit0, Bool.not_eq_true', Bool.eq_false_iff, Ne, or_assoc, and_assoc]

end

/-- A colour index's shade is its two bits of the palette register. -/
theorem shadeOf_toNat (r : Byte) (c : BitVec 2) : (shadeOf r c).toNat = r.toNat / 4 ^ c.toNat % 4 := by
  rw [shadeOf, BitVec.extractLsb'_toNat, Nat.shiftRight_eq_div_pow, Nat.pow_mul]

theorem shadeColour_eq (t : ShadeTable) (n : BitVec 2) :
    shadeColour t n = [t.shade0, t.shade1, t.shade2, t.shade3].getD n.toNat 0#15 := by
  have hn : ∀ n : BitVec 2, n = 0#2 ∨ n = 1#2 ∨ n = 2#2 ∨ n = 3#2 := by decide
  obtain rfl | rfl | rfl | rfl := hn n <;> rfl

/-- In DMG mode a colour is the shade that a palette register gives the colour index. -/
theorem shadeColour_shadeOf (t : ShadeTable) (r : Byte) (c : BitVec 2) : shadeColour t (shadeOf r c) =
    [t.shade0, t.shade1, t.shade2, t.shade3].getD (r.toNat / 4 ^ c.toNat % 4) 0#15 := by
  rw [shadeColour_eq, shadeOf_toNat]

/-- Settles O30: `mix` asks whether the sprite's pixel wins and then whether the background is off; `colour` looks the
source it names up in its palette. -/
theorem mixPriority : Obligations.MixPriority := by
  unfold Obligations.MixPriority
  refine ⟨fun p m bg sp => ?shown, fun s c pal => ⟨fun hm => ?dmg, fun hm => ?cgb⟩⟩
  case shown =>
    simp only [← Ppu.backgroundOff_iff, ← Ppu.spriteWins_iff]
    exact ⟨fun h => if_pos h, fun h => if_neg h, fun h => if_pos h, fun h => if_neg h⟩
  case dmg =>
    simp only [← shadeColour_shadeOf, Ppu.colour, State.ppuEnv, hm, true_and]
    rfl
  case cgb =>
    simp only [Ppu.colour, State.ppuEnv, hm]
    exact ⟨rfl, rfl⟩

/-! The OAM scan (R223). -/

/-- The DMG order splits the queue: what comes before ends with an x not above the sprite's own, what comes after has none. -/
theorem insertByX_split (r : Sprite) (q : List Sprite) : ∃ before after, q = before ++ after ∧
    insertByX r q = before ++ r :: after ∧
    (before = [] ∨ ∃ b, before.getLast? = some b ∧ b.x.toNat ≤ r.x.toNat) ∧ ∀ a ∈ after, r.x.toNat < a.x.toNat := by
  induction q with
  | nil => exact ⟨[], [], rfl, rfl, .inl rfl, nofun⟩
  | cons a q ih =>
    simp only [insertByX]
    split
    · next hany =>
      obtain ⟨before, after, rfl, hinsert, hlast, hafter⟩ := ih
      refine ⟨a :: before, after, rfl, by rw [hinsert]; rfl, .inr ?_, hafter⟩
      obtain rfl | ⟨b, hb, hle⟩ := hlast
      · simp only [List.any_eq_true, decide_eq_true_eq] at hany
        obtain ⟨b, hb, hle⟩ := hany
        obtain rfl | hb := List.mem_cons.mp hb
        · exact ⟨b, rfl, hle⟩
        · exact absurd hle (Nat.not_le.mpr (hafter b hb))
      · exact ⟨b, by simp [List.getLast?_cons, hb], hle⟩
    · next hany =>
      simp only [List.any_eq_true, decide_eq_true_eq, not_exists, not_and, Nat.not_le] at hany
      exact ⟨[], a :: q, rfl, rfl, .inl rfl, hany⟩

section

variable {p : Ppu} {i : Nat}

/-- The entry is selected: fewer than ten are, and the line crosses it (R223). -/
def Ppu.selects (e : PpuEnv) (i : Nat) (p : Ppu) : Prop :=
  p.lineSprites < 10 ∧ (e.oamScanRead p (4 * i)).toNat ≤ p.ly + 16 ∧
    p.ly + 16 < (e.oamScanRead p (4 * i)).toNat + (if p.lcdc.getLsbD 2 = true then 16 else 8)

/-- The sprite record of an OAM entry (R40). -/
def Ppu.entrySprite (e : PpuEnv) (i : Nat) (p : Ppu) : Sprite :=
  ⟨i, e.oamScanRead p (4 * i), e.oamScanRead p (4 * i + 1)⟩

theorem Ppu.scanEntry_of_selected {e : PpuEnv} (h : p.selects e i) : p.scanEntry e i = { p with
    spritesAt := setQueue p.spritesAt (spriteKey (p.entrySprite e i).x)
      (enqueueSprite e.cfg.hwMode (queueAt p.spritesAt (spriteKey (p.entrySprite e i).x)) (p.entrySprite e i))
    lineSprites := p.lineSprites + 1 } := by
  obtain ⟨hten, hlow, hhigh⟩ := h
  refine if_pos ?_
  simp only [onLine, Bool.and_eq_true, decide_eq_true_eq]
  exact ⟨hten, hlow, hhigh⟩

/-- A selected entry goes into the queue of its own key, and no other queue changes. -/
theorem Ppu.queueAt_scanEntry {e : PpuEnv} (hwf : SpriteMap.wf p.spritesAt = true) (h : p.selects e i) (k : Nat) :
    queueAt (p.scanEntry e i).spritesAt k = if k = spriteKey (p.entrySprite e i).x
      then enqueueSprite e.cfg.hwMode (queueAt p.spritesAt (spriteKey (p.entrySprite e i).x)) (p.entrySprite e i)
      else queueAt p.spritesAt k := by
  rw [scanEntry_of_selected h]
  exact queueAt_setQueue _ k _ hwf

theorem Ppu.scanEntry_of_not_selected {e : PpuEnv} (h : ¬ p.selects e i) : p.scanEntry e i = p := by
  refine if_neg fun hc => h ?_
  simp only [onLine, Bool.and_eq_true, decide_eq_true_eq] at hc
  exact hc

end

section

variable {s : State}

/-- A dot of the OAM scan does its examination, and nothing else to the sprites of the line (R223). -/
theorem tickPpu_oamScan_sprites (he : s.ppu.lcdEnabled = true) (hm : s.ppu.mode = .oamScan) (hl : s.ppu.lineTicks < 80) :
    (tickPpu s).ppu.spritesAt = (s.ppu.oamScanStep s.ppuEnv s.ppu.lineTicks).spritesAt ∧
    (tickPpu s).ppu.lineSprites = (s.ppu.oamScanStep s.ppuEnv s.ppu.lineTicks).lineSprites := by
  obtain ⟨b, hb⟩ := tickPpu_ppu_of_inside he (by omega)
  rw [hb, Ppu.dot_of_oamScan _ hm]
  split <;> exact ⟨rfl, rfl⟩

end

/-- Settles O31: an odd dot examines its entry, and a selected one is put into its own queue, in DMG mode where
`insertByX_split` says. -/
theorem oamScanSelection : Obligations.OamScanSelection := by
  unfold Obligations.OamScanSelection
  intro s h he hm hl
  obtain ⟨hsprites, hcount⟩ := tickPpu_oamScan_sprites he hm hl
  refine ⟨tickPpu s, rfl, fun hn => ?none, fun hsel => ?selected⟩
  case none =>
    have hstep : s.ppu.oamScanStep s.ppuEnv s.ppu.lineTicks = s.ppu := by
      rw [Ppu.oamScanStep]
      split
      · next hodd => exact Ppu.scanEntry_of_not_selected fun hsel => hn ⟨hodd, hsel⟩
      · rfl
    rw [hsprites, hcount, hstep]
    exact ⟨rfl, rfl⟩
  case selected =>
    obtain ⟨hodd, hsel⟩ : _ ∧ s.ppu.selects s.ppuEnv ((s.ppu.lineTicks - 1) / 2) := hsel
    rw [Ppu.oamScanStep, if_pos hodd] at hsprites hcount
    rw [Ppu.scanEntry_of_selected hsel] at hcount
    have hqueue := Ppu.queueAt_scanEntry h.spritesAt hsel
    rw [hsprites]
    refine ⟨hcount, fun k hk => (hqueue k).trans (if_neg hk), fun hcgb => ((hqueue _).trans (if_pos rfl)).trans ?_,
      fun hdmg => ?_⟩
    · rw [show s.ppuEnv.cfg.hwMode = .cgb from hcgb]
      rfl
    · obtain ⟨before, after, hq, hinsert, hparts⟩ := insertByX_split
        (s.ppu.entrySprite s.ppuEnv ((s.ppu.lineTicks - 1) / 2)) (queueAt s.ppu.spritesAt _)
      refine ⟨before, after, hq, ((hqueue _).trans (if_pos rfl)).trans ?_, hparts⟩
      rw [show s.ppuEnv.cfg.hwMode = .dmg from hdmg]
      exact hinsert

end Sys2Proof.Machine

namespace Sys2Proof.Machine

/-! The CGB registers in DMG mode (R208). -/

/-- With the default map nothing owns an address of a place that is not present, whatever is registered. -/
theorem ownerOf_of_absent {s : State} (hm : s.cfg.baseOverride = []) {p : Place} (hp : s.cfg.present p = false) {off : Nat}
    (ho : off < p.size) : ownerOf s (placeAddr p off) = none := by
  cases hown : ownerOf s (placeAddr p off) with
  | none => rfl
  | some h =>
    have hclaim := (ownerOf_registered hown).2
    rw [Config.claims] at hclaim
    obtain ⟨q, hq⟩ := Option.isSome_iff_exists.mp hclaim
    obtain ⟨hcov, -, hpresent⟩ := placeAt_default hm hq
    rw [place_unique hcov (covers_placeAddr ho), hp] at hpresent
    exact absurd hpresent Bool.false_ne_true

/-- Neither segment holds an address above OAM (R88). -/
theorem segmentOf_above_oam {c : Config} (hc : c.segments = Config.default.segments) {a : Addr} (ha : 0xFE9F < a.toNat) :
    c.segmentOf a = none := by
  have h1 : ¬ a.toNat ≤ 0xFE9F := by omega
  have h2 : ¬ a.toNat ≤ 0xFDFF := by omega
  simp [Config.segmentOf, hc, Config.default, h1, h2]

/-- Settles O25: no handler claims these places in DMG mode, and no segment holds their addresses. -/
theorem cgbRegistersUnmappedInDmg : Obligations.CgbRegistersUnmappedInDmg := by
  unfold Obligations.CgbRegistersUnmappedInDmg
  intro s hb v p hmap hdmg hp
  obtain ⟨hrow, hsize, hcgb, haddr⟩ :
      p ∈ Place.inTable ∧ 0 < p.size ∧ p.cgbOnly = true ∧ 0xFE9F < (placeAddr p 0).toNat := by
    fin_cases hp <;> decide
  have habsent : s.cfg.present p = false := by rw [Config.present, hcgb, hdmg]; rfl
  have hown := ownerOf_of_absent hmap.1 habsent hsize
  have hfree : ¬ AccessBlocked s (placeAddr p 0) hb := by
    rintro ⟨-, g, hg, -⟩
    exact absurd ((segmentOf_above_oam hmap.2 haddr).symm.trans hg) nofun
  rw [exec_readInstr (tablePlaceAt_register hrow hsize), exec_writeInstr (tablePlaceAt_register hrow hsize)]
  obtain ⟨b, hread, -, hunmapped, -⟩ := exec_rd_result s (placeAddr p 0) hb
  rw [← hunmapped hfree hown]
  exact ⟨hread, (exec_wr_result s (placeAddr p 0) v hb).2.1 hfree hown⟩

end Sys2Proof.Machine

namespace Sys2Proof.Machine

/-! A cycle with one event in it: what a Timer's period and a PPU's frame have in common. -/

section
variable {α : Type} {f : α → α} {pos : α → Nat} {m e : Nat} {Before After : α → Prop}

/-- How a walk round a cycle of `m` positions stands after `n` steps from position `p`, where the event comes with the step
after the first `k`. -/
structure Walked (pos : α → Nat) (m p k : Nat) (Before After : α → Prop) (n : Nat) (b : α) : Prop where
  before : n ≤ k → Before b
  after : k < n → After b
  pos_eq : pos b = p + n ∨ pos b + m = p + n
  lt : pos b < m

/-- The state walks round the cycle, and the step from position `e` is the one that takes `Before` to `After`: a full round,
from wherever it starts, leads back to its start with the event behind it. -/
theorem repeatN_round (he : e < m)
    (hpos : ∀ b, Before b ∨ After b → pos (f b) = if pos b + 1 = m then 0 else pos b + 1)
    (hbefore : ∀ b, Before b → pos b ≠ e → Before (f b)) (hevent : ∀ b, Before b → pos b = e → After (f b))
    (hafter : ∀ b, After b → pos b ≠ e → After (f b)) {a : α} (ha : Before a) (hlt : pos a < m) :
    After (repeatN m f a) ∧ pos (repeatN m f a) = pos a := by
  obtain ⟨k, hk, hkpos⟩ : ∃ k, k < m ∧ (pos a + k = e ∨ pos a + k = e + m) := by
    by_cases hle : pos a ≤ e
    · exact ⟨e - pos a, by omega, by omega⟩
    · exact ⟨e + m - pos a, by omega, by omega⟩
  have hstart : Walked pos m (pos a) k Before After 0 a := ⟨fun _ => ha, nofun, .inl rfl, hlt⟩
  have hend : Walked pos m (pos a) k Before After m (repeatN m f a) := by
    refine repeatN_counts hstart m fun n b hn ⟨hb, hd, hposb, hltb⟩ => ?_
    have hnext := hpos b ((Nat.lt_or_ge k n).symm.imp hb hd)
    refine ⟨fun hle => hbefore b (hb (by omega)) (by omega), fun hgt => ?_, ?_, ?_⟩
    case refine_2 | refine_3 => rw [hnext]; split <;> omega
    obtain rfl | hgt := Nat.eq_or_lt_of_le (Nat.le_of_lt_succ hgt)
    · exact hevent b (hb (Nat.le_refl k)) (by omega)
    · exact hafter b (hd hgt) (by omega)
  have hback := hend.pos_eq
  have hin := hend.lt
  exact ⟨hend.after hk, by omega⟩

end

/-! A tick of the Timer (R331 to R333). -/

/-- The signal falls on the next count (R331). -/
def Timer.falls (t : Timer) : Prop :=
  t.tac.getLsbD 2 = true ∧ t.counter.getLsbD t.selBit.index = true ∧ (t.counter + 1#16).getLsbD t.selBit.index = false

theorem Timer.falls_iff (t : Timer) :
    t.falls ↔ t.sig = true ∧ ¬ Timer.sig { t with counter := t.counter + 1#16 } = true := by
  simp only [falls, sig_iff, not_and, Bool.not_eq_true, and_assoc]
  exact ⟨fun ⟨h1, h2, h3⟩ => ⟨h1, h2, fun _ => h3⟩, fun ⟨h1, h2, h3⟩ => ⟨h1, h2, h3 h1⟩⟩

theorem Timer.countStep_of_falls {hold : Nat} {t : Timer} (h : t.falls) : t.countStep hold = { t with
    counter := t.counter + 1#16
    tima := t.tima + 1#8
    reloadCtr := if t.tima = 0xFF#8 then 4 + hold else t.reloadCtr } :=
  (onFall_of_fall (t.falls_iff.mp h)).trans (incTima_eq ..)

theorem Timer.countStep_of_not_falls {hold : Nat} {t : Timer} (h : ¬ t.falls) :
    t.countStep hold = { t with counter := t.counter + 1#16 } :=
  onFall_of_not_fall (t.falls_iff.not.mp h)

/-- The reload comes on the fourth tick after an overflow, and with it the request (R333). -/
theorem Timer.reloadStep_eq (hold : Nat) (t : Timer) : t.reloadStep hold =
    ({ t with
        reloadCtr := t.reloadCtr - 1
        tima := if t.reloadCtr = hold + 1 then t.tma else t.tima },
      decide (t.reloadCtr = hold + 1)) := by
  rw [reloadStep]
  split
  · have hlast : t.reloadCtr - 1 = hold ↔ t.reloadCtr = hold + 1 := by omega
    simp only [hlast]
    split
    · next h => simp [h]
    · next h => simp [h]
  · have h0 : t.reloadCtr = 0 := by omega
    have h1 : ¬ t.reloadCtr = hold + 1 := by omega
    rw [if_neg h1, decide_eq_false h1, show t.reloadCtr - 1 = t.reloadCtr by omega]

/-- The CPU after a tick: interrupt 2 is requested with the reload. -/
theorem tickTimer_cpu_eq (s : State) : (tickTimer s).cpu =
    if s.timer.reloadCtr = s.cfg.timaReloadHold + 1 then { s.cpu with ifr := s.cpu.ifr ||| 0x04#8 } else s.cpu := by
  simp only [tickTimer, Timer.reloadStep_eq, decide_eq_true_eq]
  split <;> rfl

theorem tickTimer_eq (s : State) : tickTimer s = (s.setTimer (tickTimer s).timer).setCpu (tickTimer s).cpu := by
  simp only [tickTimer]
  split <;> rfl

/-- TIMA as part 1 of a tick leaves it (R333). -/
def Timer.reloaded (hold : Nat) (t : Timer) : Byte := if t.reloadCtr = hold + 1 then t.tma else t.tima

theorem tickTimer_timer_of_falls {s : State} (h : s.timer.falls) : (tickTimer s).timer = { s.timer with
    counter := s.timer.counter + 1#16
    tima := s.timer.reloaded s.cfg.timaReloadHold + 1#8
    reloadCtr := if s.timer.reloaded s.cfg.timaReloadHold = 0xFF#8 then 4 + s.cfg.timaReloadHold
      else s.timer.reloadCtr - 1 } := by
  rw [tickTimer_timer, Timer.reloadStep_eq]
  exact Timer.countStep_of_falls h

theorem tickTimer_timer_of_not_falls {s : State} (h : ¬ s.timer.falls) : (tickTimer s).timer = { s.timer with
    counter := s.timer.counter + 1#16
    tima := s.timer.reloaded s.cfg.timaReloadHold
    reloadCtr := s.timer.reloadCtr - 1 } := by
  rw [tickTimer_timer, Timer.reloadStep_eq]
  exact Timer.countStep_of_not_falls h

/-- Settles O16: part 1 is the reload counter, part 2 the count, with an increment where the signal falls. -/
theorem tickTimerEffect : Obligations.TickTimerEffect := by
  unfold Obligations.TickTimerEffect
  intro s
  have hkept : (tickTimer s).timer.counter = s.timer.counter + 1#16 ∧ (tickTimer s).timer.tma = s.timer.tma ∧
      (tickTimer s).timer.tac = s.timer.tac ∧ (tickTimer s).timer.selBit = s.timer.selBit := by
    by_cases h : s.timer.falls
    · rw [tickTimer_timer_of_falls h]
      exact ⟨rfl, rfl, rfl, rfl⟩
    · rw [tickTimer_timer_of_not_falls h]
      exact ⟨rfl, rfl, rfl, rfl⟩
  obtain ⟨hcounter, htma, htac, hsel⟩ := hkept
  refine ⟨tickTimer s, rfl, tickTimer_eq s, hcounter, htma, htac, hsel, tickTimer_cpu_eq s, fun h => ?_, fun h => ?_⟩
  · rw [tickTimer_timer_of_falls h]
    exact ⟨rfl, rfl⟩
  · rw [tickTimer_timer_of_not_falls h]
    exact ⟨rfl, rfl⟩

/-! Where the signal falls: on the last count of a period of the selected bit (R343). -/

/-- How far the counter stands in the period of the selected bit. -/
def Timer.phase (t : Timer) : Nat := t.counter.toNat % 2 ^ (t.selBit.index + 1)

theorem MuxBit.falls_iff (i : MuxBit) (c : BitVec 16) :
    (c.getLsbD i.index = true ∧ (c + 1#16).getLsbD i.index = false) ↔
      c.toNat % 2 ^ (i.index + 1) + 1 = 2 ^ (i.index + 1) := by
  simp only [BitVec.getLsbD, BitVec.toNat_add, Nat.testBit_eq_decide_div_mod_eq, decide_eq_true_eq,
    decide_eq_false_iff_not, BitVec.toNat_ofNat]
  cases i <;> simp only [MuxBit.index] <;> omega

theorem MuxBit.phase_succ (i : MuxBit) (c : BitVec 16) : (c + 1#16).toNat % 2 ^ (i.index + 1) =
    if c.toNat % 2 ^ (i.index + 1) + 1 = 2 ^ (i.index + 1) then 0 else c.toNat % 2 ^ (i.index + 1) + 1 := by
  rw [BitVec.toNat_add]
  split
  case isTrue h => cases i <;> simp only [MuxBit.index, BitVec.toNat_ofNat] at h ⊢ <;> omega
  case isFalse h => cases i <;> simp only [MuxBit.index, BitVec.toNat_ofNat] at h ⊢ <;> omega

theorem Timer.falls_iff_phase {t : Timer} (hon : t.tac.getLsbD 2 = true) :
    t.falls ↔ t.phase + 1 = 2 ^ (t.selBit.index + 1) := by
  rw [phase, ← MuxBit.falls_iff]
  exact and_iff_right hon

/-- What a tick makes of the timeline's terms: the phase counts on, and the settings stay. -/
theorem tickTimer_settings (s : State) : (tickTimer s).timer.tac = s.timer.tac ∧
    (tickTimer s).timer.selBit = s.timer.selBit ∧ (tickTimer s).timer.tma = s.timer.tma ∧
    (tickTimer s).timer.phase =
      if s.timer.phase + 1 = 2 ^ (s.timer.selBit.index + 1) then 0 else s.timer.phase + 1 := by
  by_cases h : s.timer.falls
  · rw [tickTimer_timer_of_falls h]
    exact ⟨rfl, rfl, rfl, MuxBit.phase_succ _ _⟩
  · rw [tickTimer_timer_of_not_falls h]
    exact ⟨rfl, rfl, rfl, MuxBit.phase_succ _ _⟩

theorem execAll_tickTimer (n : Nat) (s : State) :
    execAll (List.replicate n .tickTimer) s = .next (repeatN n tickTimer s) :=
  execAll_replicate (fun _ => rfl) n s

/-! The period (R343). -/

/-- The Timer runs on with the settings of `s`, TIMA at `x`, no reload pending and nothing requested. -/
structure Counting (s : State) (x : Byte) (u : State) : Prop where
  tac : u.timer.tac = s.timer.tac
  selBit : u.timer.selBit = s.timer.selBit
  reloadCtr : u.timer.reloadCtr = 0
  tima : u.timer.tima = x
  cpu : u.cpu = s.cpu

section
variable {s u : State} {x : Byte}

/-- With no reload pending a tick requests nothing and leaves TIMA to part 2. -/
theorem Counting.tick (h : Counting s x u) : (tickTimer u).cpu = s.cpu ∧ u.timer.reloaded u.cfg.timaReloadHold = x := by
  have hno : ¬ u.timer.reloadCtr = u.cfg.timaReloadHold + 1 := by rw [h.reloadCtr]; omega
  rw [tickTimer_cpu_eq, if_neg hno, Timer.reloaded, if_neg hno]
  exact ⟨h.cpu, h.tima⟩

theorem Counting.stays (h : Counting s x u) (hf : ¬ u.timer.falls) : Counting s x (tickTimer u) := by
  obtain ⟨hcpu, hx⟩ := h.tick
  have ht := tickTimer_timer_of_not_falls hf
  rw [hx, h.reloadCtr] at ht
  exact ⟨by rw [ht]; exact h.tac, by rw [ht]; exact h.selBit, by rw [ht], by rw [ht], hcpu⟩

theorem Counting.counts (h : Counting s x u) (hne : x ≠ 0xFF#8) (hf : u.timer.falls) :
    Counting s (x + 1#8) (tickTimer u) := by
  obtain ⟨hcpu, hx⟩ := h.tick
  have ht := tickTimer_timer_of_falls hf
  rw [hx, if_neg hne, h.reloadCtr] at ht
  exact ⟨by rw [ht]; exact h.tac, by rw [ht]; exact h.selBit, by rw [ht], by rw [ht], hcpu⟩

theorem Counting.falls_iff (hon : s.timer.tac.getLsbD 2 = true) (h : Counting s x u) :
    u.timer.falls ↔ u.timer.phase = 2 ^ (s.timer.selBit.index + 1) - 1 := by
  have hpos : 0 < 2 ^ (s.timer.selBit.index + 1) := by positivity
  rw [Timer.falls_iff_phase (h.tac ▸ hon), h.selBit]
  omega

theorem Counting.phase_tick (h : Counting s x u) : (tickTimer u).timer.phase =
    if u.timer.phase + 1 = 2 ^ (s.timer.selBit.index + 1) then 0 else u.timer.phase + 1 := by
  rw [(tickTimer_settings u).2.2.2, h.selBit]

end

/-- Settles O18: a period is a round of the counter's phase, and the signal falls at its end. -/
theorem timaRate : Obligations.TimaRate := by
  unfold Obligations.TimaRate
  intro s hon hctr hne
  have hpos : 0 < 2 ^ (s.timer.selBit.index + 1) := by positivity
  have hround := repeatN_round (f := tickTimer) (pos := fun u => u.timer.phase) (m := 2 ^ (s.timer.selBit.index + 1))
    (e := 2 ^ (s.timer.selBit.index + 1) - 1) (Before := Counting s s.timer.tima)
    (After := Counting s (s.timer.tima + 1#8)) (by omega) (fun u hu => hu.elim Counting.phase_tick Counting.phase_tick)
    (fun u hu he => hu.stays ((hu.falls_iff hon).not.mpr he)) (fun u hu he => hu.counts hne ((hu.falls_iff hon).mpr he))
    (fun u hu he => hu.stays ((hu.falls_iff hon).not.mpr he)) ⟨rfl, rfl, hctr, rfl, rfl⟩ (Nat.mod_lt _ hpos)
  obtain ⟨hend, -⟩ := hround
  exact ⟨_, execAll_tickTimer _ s, hend.tima, hend.reloadCtr, hend.cpu⟩

/-! The overflow (R344). -/

/-- The machine `n` ticks after the one on which TIMA overflowed. -/
structure Overflown (s : State) (n : Nat) (u : State) : Prop where
  cfg : u.cfg = s.cfg
  tac : u.timer.tac = s.timer.tac
  tma : u.timer.tma = s.timer.tma
  phase : u.timer.phase = n
  tima : u.timer.tima = 0#8
  reloadCtr : u.timer.reloadCtr = 4 + s.cfg.timaReloadHold - n
  cpu : u.cpu = s.cpu

section
variable {s u : State} {n : Nat}

theorem Overflown.start (hon : s.timer.tac.getLsbD 2 = true) (hff : s.timer.tima = 0xFF#8) (h0 : s.timer.reloadCtr = 0)
    (hf : s.timer.falls) : Overflown s 0 (tickTimer s) := by
  have hcount : Counting s 0xFF#8 s := ⟨rfl, rfl, h0, hff, rfl⟩
  obtain ⟨hcpu, hx⟩ := hcount.tick
  obtain ⟨htac, -, htma, hphase⟩ := tickTimer_settings s
  have ht := tickTimer_timer_of_falls hf
  rw [hx, if_pos rfl] at ht
  exact ⟨(tickTimer_frame s).1, htac, htma, hphase.trans (if_pos ((Timer.falls_iff_phase hon).mp hf)), by rw [ht]; rfl,
    by rw [ht]; rfl, hcpu⟩

/-- The signal does not fall again so soon: a period is 16 ticks at least. -/
theorem Overflown.not_falls (hon : s.timer.tac.getLsbD 2 = true) (h : Overflown s n u) (hn : n < 4) : ¬ u.timer.falls := by
  rw [Timer.falls_iff_phase (h.tac ▸ hon), h.phase]
  cases u.timer.selBit <;> simp only [MuxBit.index] <;> omega

theorem Overflown.tick (hon : s.timer.tac.getLsbD 2 = true) (h : Overflown s n u) (hn : n < 3) :
    Overflown s (n + 1) (tickTimer u) := by
  have hf := h.not_falls hon (by omega)
  have hno : ¬ u.timer.reloadCtr = u.cfg.timaReloadHold + 1 := by rw [h.reloadCtr, h.cfg]; omega
  obtain ⟨htac, -, htma, hphase⟩ := tickTimer_settings u
  rw [if_neg ((Timer.falls_iff_phase (h.tac ▸ hon)).not.mp hf), h.phase] at hphase
  have ht := tickTimer_timer_of_not_falls hf
  rw [Timer.reloaded, if_neg hno] at ht
  exact ⟨(tickTimer_frame u).1.trans h.cfg, htac.trans h.tac, htma.trans h.tma, hphase, by rw [ht]; exact h.tima,
    by rw [ht]; exact (congrArg (· - 1) h.reloadCtr).trans (Nat.sub_sub ..),
    by rw [tickTimer_cpu_eq, if_neg hno]; exact h.cpu⟩

/-- The fourth tick after the overflow reloads TIMA and requests interrupt 2. -/
theorem Overflown.reload (hon : s.timer.tac.getLsbD 2 = true) (h : Overflown s 3 u) :
    (tickTimer u).timer.tima = s.timer.tma ∧ (tickTimer u).cpu = { s.cpu with ifr := s.cpu.ifr ||| 0x04#8 } := by
  have hlast : u.timer.reloadCtr = u.cfg.timaReloadHold + 1 := by rw [h.reloadCtr, h.cfg]; omega
  rw [tickTimer_timer_of_not_falls (h.not_falls hon (by decide)), tickTimer_cpu_eq, if_pos hlast, Timer.reloaded,
    if_pos hlast, h.tma, h.cpu]
  exact ⟨rfl, rfl⟩

end

/-- Settles O17: the tick that overflows, three that wait, and the one that reloads. -/
theorem timerOverflowTimeline : Obligations.TimerOverflowTimeline := by
  unfold Obligations.TimerOverflowTimeline
  intro s hon hff h0 hhigh hlow
  have hwait {n : Nat} (hn : n < 4) : Overflown s n (repeatN (n + 1) tickTimer s) :=
    repeatN_counts (Overflown.start hon hff h0 ⟨hon, hhigh, hlow⟩) n fun k u hk hu => hu.tick hon (by omega)
  refine ⟨fun n hn => ⟨_, execAll_tickTimer _ s, (hwait hn).tima, (hwait hn).reloadCtr, (hwait hn).cpu⟩,
    _, execAll_tickTimer 5 s, ?_⟩
  rw [repeatN_add 4 1]
  exact (hwait (by decide : 3 < 4)).reload hon

end Sys2Proof.Machine

namespace Sys2Proof.Machine

/-! A frame (R180, R193, R194). -/

/-- The dot of the frame at which the PPU stands. -/
def Ppu.frameDot (p : Ppu) : Nat := 456 * p.ly + p.lineTicks

section
variable {s u : State} {p q : Ppu}

theorem PpuInv.frameDot_lt (h : PpuInv p) : p.frameDot < 70224 := by
  have hly := h.ly
  have hlt := h.lineTicks
  rw [Ppu.frameDot]
  omega

/-- The dot of the frame gives the line and the dot in it. -/
theorem PpuInv.eq_of_frameDot (hp : PpuInv p) (hq : PpuInv q) (h : p.frameDot = q.frameDot) :
    p.ly = q.ly ∧ p.lineTicks = q.lineTicks := by
  have hlp := hp.lineTicks
  have hlq := hq.lineTicks
  rw [Ppu.frameDot, Ppu.frameDot] at h
  omega

/-- A dot moves on by one in the frame. -/
theorem tickPpu_frameDot (h : PpuInv s.ppu) (he : s.ppu.lcdEnabled = true) : (tickPpu s).ppu.frameDot =
    if s.ppu.frameDot + 1 = 70224 then 0 else s.ppu.frameDot + 1 := by
  have hly := h.ly
  have hlt := h.lineTicks
  have hmoved : (tickPpu s).ppu.lineTicks = (if s.ppu.lineTicks = 455 then 0 else s.ppu.lineTicks + 1) ∧
      (tickPpu s).ppu.ly = if s.ppu.lineTicks = 455 then (s.ppu.ly + 1) % 154 else s.ppu.ly := by
    by_cases hl : s.ppu.lineTicks = 455
    · obtain ⟨b, hb⟩ := tickPpu_ppu_of_end h he hl
      rw [hb, if_pos hl, if_pos hl]
      split <;> exact ⟨rfl, rfl⟩
    · obtain ⟨b, hb⟩ := tickPpu_ppu_of_inside he (show s.ppu.lineTicks < 455 by omega)
      obtain ⟨hly', hlt'⟩ := s.ppu.dot_line s.ppuEnv
      rw [hb, if_neg hl, if_neg hl]
      exact ⟨hlt', hly'⟩
  obtain ⟨hlt', hly'⟩ := hmoved
  rw [Ppu.frameDot, hlt', hly', Ppu.frameDot]
  split <;> split <;> omega

/-- The PPU runs, and the frame's events so far are `events`. -/
structure InFrame (s : State) (events : List Event) (u : State) : Prop where
  inv : PpuInv u.ppu
  on : u.ppu.lcdEnabled = true
  draws : u.draws = s.draws
  trace : u.trace = s.trace ++ events

theorem InFrame.of_trace {es es' : List Event} (h : InFrame s es u) (ht : (tickPpu u).trace = s.trace ++ es') :
    InFrame s es' (tickPpu u) := by
  have hkept := tickPpu_programmed u
  simp only [Ppu.programmed, Prod.mk.injEq] at hkept
  obtain ⟨hlcdc, -⟩ := hkept
  have hdraws : (tickPpu u).draws = u.draws := by simp [tickPpu_frame]
  exact ⟨h.inv.tick, (congrArg (BitVec.getLsbD · 7) hlcdc).trans h.on, hdraws.trans h.draws, ht⟩

/-- The last dot of line 143 is dot 65663 of the frame. -/
theorem PpuInv.frameDot_eq_iff (h : PpuInv p) : p.frameDot = 65663 ↔ p.lineTicks = 455 ∧ p.ly = 143 := by
  have hlt := h.lineTicks
  rw [Ppu.frameDot]
  omega

/-- No other dot emits an event. -/
theorem InFrame.silent {es : List Event} (h : InFrame s es u) (hd : u.ppu.frameDot ≠ 65663) : InFrame s es (tickPpu u) := by
  refine h.of_trace ?_
  rw [tickPpu_trace h.inv h.on, if_neg (h.inv.frameDot_eq_iff.not.mp hd), h.trace]

/-- It emits the VBlank event (R194). -/
theorem InFrame.vblank (h : InFrame s [] u) (hd : u.ppu.frameDot = 65663) :
    InFrame s [.vblank (tickPpu u).ppu.fb s.draws] (tickPpu u) := by
  refine h.of_trace ?_
  rw [tickPpu_trace h.inv h.on, if_pos (h.inv.frameDot_eq_iff.mp hd), h.trace, h.draws, List.append_nil]

theorem InFrame.frameDot_tick {es : List Event} (h : InFrame s es u) : (tickPpu u).ppu.frameDot =
    if u.ppu.frameDot + 1 = 70224 then 0 else u.ppu.frameDot + 1 := tickPpu_frameDot h.inv h.on

end

/-- Settles O28: a frame is a round of 70224 dots, in which dot 65663 alone emits an event. -/
theorem oneVBlankInAFrame : Obligations.OneVBlankInAFrame := by
  unfold Obligations.OneVBlankInAFrame
  intro s h he
  obtain ⟨⟨fb, hend⟩, hdot⟩ := repeatN_round (f := tickPpu) (pos := fun u => u.ppu.frameDot) (m := 70224) (e := 65663)
    (Before := InFrame s []) (After := fun u => ∃ fb, InFrame s [.vblank fb s.draws] u) (by decide)
    (fun u hu => hu.elim InFrame.frameDot_tick fun ⟨_, hu⟩ => hu.frameDot_tick) (fun u hu hd => hu.silent hd)
    (fun u hu hd => ⟨_, hu.vblank hd⟩) (fun u ⟨fb, hu⟩ hd => ⟨fb, hu.silent hd⟩)
    ⟨h, he, rfl, (List.append_nil s.trace).symm⟩ h.frameDot_lt
  obtain ⟨hly, hlt⟩ := hend.inv.eq_of_frameDot h hdot
  exact ⟨_, fb, execAll_tickPpu 70224 s, hly, hlt, hend.trace⟩

end Sys2Proof.Machine

namespace Sys2Proof.Machine

/-! A tick of the OAM DMA engine, by what it accesses (R284 to R287). -/

/-- A tick updates the engine and the block flags, after a write of its byte on the ticks that have one. It takes no segment
but GENERAL, starts no engine, and a running one leaves the OAM block as it is. -/
theorem tickDma_cases {s : State} (h : DmaInv s.dma) : ∃ u d b, tickDma s = (u.setDma d).setBus b ∧
    (u = s ∨ (s.dma.active = true ∧ s.dma.cycle % 4 = 0 ∧ 0 < s.dma.cycle ∧ u = s.dmaWritten)) ∧
    (d.active = true → u.dma.active = true ∧ b.blockedOam = u.bus.blockedOam) := by
  have hcycle := h.cycle
  cases ha : s.dma.active with
  | false => exact ⟨s, s.dma, s.bus, tickDma_of_inactive ha, .inl rfl, fun hd => ⟨hd, rfl⟩⟩
  | true =>
    by_cases hend : s.dma.cycle = 643
    · exact ⟨s, _, _, tickDma_of_end ha hend h.srcSeg, .inl rfl, nofun⟩
    by_cases hwrite : s.dma.cycle % 4 = 0 ∧ 0 < s.dma.cycle
    · obtain ⟨h4, h0⟩ := hwrite
      by_cases hlast : s.dma.cycle = 640
      · exact ⟨s.dmaWritten, _, _, tickDma_of_lastWrite ha hlast h.srcSeg, .inr ⟨rfl, h4, h0, rfl⟩, fun hd => ⟨hd, rfl⟩⟩
      · exact ⟨s.dmaWritten, _, _, (tickDma_of_write ha h4 h0 (by omega)).trans (State.setBus_same _).symm,
          .inr ⟨rfl, h4, h0, rfl⟩, fun hd => ⟨hd, rfl⟩⟩
    by_cases hread : s.dma.cycle % 4 = 1 ∧ s.dma.cycle < 640
    · exact ⟨s, _, _, tickDma_of_read ha hread.1 hread.2, .inl rfl, fun hd => ⟨hd, rfl⟩⟩
    · exact ⟨s, _, _, (tickDma_of_idle ha (by omega) (by omega) (by omega)).trans (State.setBus_same _).symm, .inl rfl,
        fun hd => ⟨hd, rfl⟩⟩

/-! The OAM block under a transfer (R74 (f)). -/

/-- While the engine is active OAM is blocked. -/
def DmaBlocks (s : State) : Prop := s.dma.active = true → s.bus.blockedOam = true

theorem DmaBlocks.of_eq {s t : State} (h : DmaBlocks s) (hd : t.dma = s.dma) (hb : t.bus = s.bus) : DmaBlocks t := by
  rw [DmaBlocks, hd, hb]
  exact h

/-- Only the write of the DMA register touches the engine or the block flags, and it blocks OAM. -/
theorem DmaBlocks.writePlace {s : State} (p : Place) (off : Nat) (a : Addr) (v : Byte) (hb : Bool) (h : DmaBlocks s) :
    DmaBlocks (writePlace p off a v hb s) := by
  cases p
  case dma => exact fun _ => by rw [Machine.writePlace, writeDma_eq]; rfl
  case vram => simp only [Machine.writePlace]; split <;> exact h
  case oam => simp only [Machine.writePlace]; split <;> exact h
  case lcdc =>
    simp only [Machine.writePlace, writeLcdc]
    split
    · exact h.of_eq (by simp) (by simp)
    · split <;> exact h.of_eq (by simp) (by simp)
  case stat => exact h.of_eq (by simp [Machine.writePlace, writeStat]) (by simp [Machine.writePlace, writeStat])
  case lyc => exact h.of_eq (by simp [Machine.writePlace, writeLyc]) (by simp [Machine.writePlace, writeLyc])
  all_goals exact h

theorem DmaBlocks.busWrite {s : State} (a : Addr) (v : Byte) (hb : Bool) (h : DmaBlocks s) :
    DmaBlocks (busWrite a v hb s) :=
  busWrite_keeps h (fun p off a v hb _ => h.writePlace p off a v hb) a v hb

theorem DmaBlocks.tickDma {s : State} (hd : DmaInv s.dma) (h : DmaBlocks s) : DmaBlocks (tickDma s) := by
  obtain ⟨u, d, b, ht, hu, hactive⟩ := tickDma_cases hd
  have hblocks : DmaBlocks u := by
    obtain rfl | ⟨-, -, -, rfl⟩ := hu
    · exact h
    · exact h.busWrite _ _ false
  intro ha
  rw [ht] at ha ⊢
  obtain ⟨hua, hub⟩ := hactive ha
  exact hub.trans (hblocks hua)

theorem DmaBlocks.tickHdma {s : State} (h : DmaBlocks s) : DmaBlocks (tickHdma s) :=
  tickHdma_keeps (P := DmaBlocks) (fun a v _ h => h.busWrite a v false) (fun _ _ h => h) h

/-- `IOTICK` keeps the block, whatever ticks it makes. -/
theorem DmaBlocks.ioTick {s : State} (n : Nat) (ds : Bool) (hi : Inv s) (h : DmaBlocks s) : DmaBlocks (ioTick n ds s) := by
  have hall : Inv (Machine.ioTick n ds s) ∧ DmaBlocks (Machine.ioTick n ds s) := by
    refine ioTick_keeps (P := fun t => Inv t ∧ DmaBlocks t) (fun t ⟨hi, ht⟩ => ⟨hi.tickTimer, ?_⟩)
      (fun t ⟨hi, ht⟩ => ⟨hi.tickSerial, ?_⟩) (fun t ⟨hi, ht⟩ => ⟨hi.tickDma, ht.tickDma hi.dma⟩)
      (fun t ⟨hi, ht⟩ => ⟨hi.tickPpu, ?_⟩) (fun t ⟨hi, ht⟩ => ⟨hi.tickApu, ?_⟩)
      (fun t ⟨hi, ht⟩ => ⟨hi.tickHdma, ht.tickHdma⟩) (fun b t ⟨hi, ht⟩ => ⟨hi.setHalfPhase b, ht⟩) n ds ⟨hi, h⟩
    · exact ht.of_eq (by simp [tickTimer_frame]) (by simp [tickTimer_frame])
    · exact ht.of_eq (by simp [tickSerial_frame]) (by simp [tickSerial_frame])
    · exact ht.of_eq (by simp [tickPpu_frame]) (by simp [tickPpu_frame])
    · exact ht.of_eq (by simp [tickApu_frame]) (by simp [tickApu_frame])
  exact hall.2

/-! Which operation changes a block flag, and which writes IF. -/

/-- What an operation word makes of a state, as `ExecResult` says, with the operation that a change of a block flag and a
write of IF come from. -/
inductive ExecBy (i : Instr) (s : State) : State → Prop
  | read (a : Addr) (hb : Bool) : ExecBy i s (issueRead a hb s)
  | write (a : Addr) (v : Byte) (hb : Bool) (hif : a = 0xFF0F#16 → i = .wr hb a v) : ExecBy i s (busWrite a v hb s)
  | ioTick (n : Nat) (ds : Bool) : ExecBy i s (ioTick n ds s)
  | block (g : Segment) (v : Bool) (hi : i = .block g v) : ExecBy i s (s.setBlocked g v)
  | register (hid : HandlerId) : ExecBy i s (registerHandler hid s)
  | unregister (hid : HandlerId) : ExecBy i s (unregisterHandler hid s)
  | reset : ExecBy i s (resetBlock s)
  | tickTimer : ExecBy i s (tickTimer s)
  | tickSerial : ExecBy i s (tickSerial s)
  | tickDma : ExecBy i s (tickDma s)
  | tickPpu : ExecBy i s (tickPpu s)
  | tickApu : ExecBy i s (tickApu s)
  | tickHdma : ExecBy i s (tickHdma s)

/-- No row of a region reaches the address of IF. -/
theorem placeAddr_region_ne_if {p : Place} {n : Nat} (hn : p.defaultBase.toNat + n < 0xFF0F ∨ 0xFF0F < p.defaultBase.toNat)
    (hlt : p.defaultBase.toNat + n < 65536) : placeAddr p n ≠ 0xFF0F#16 := by
  intro h
  have htoNat := congrArg BitVec.toNat h
  rw [placeAddr, BitVec.toNat_add, BitVec.toNat_ofNat, BitVec.toNat_ofNat] at htoNat
  omega

theorem exec_by (i : Instr) (s : State) : ∃ t, exec i s = .next t ∧ ExecBy i s t := by
  cases i
  case iotick n => exact ⟨_, rfl, .ioTick n.toNat false⟩
  case iotick2 n => exact ⟨_, rfl, .ioTick n.toNat true⟩
  case block g v => exact ⟨_, rfl, .block g v rfl⟩
  case register hid => exact ⟨_, rfl, .register hid⟩
  case unregister hid => exact ⟨_, rfl, .unregister hid⟩
  case reset => exact ⟨_, rfl, .reset⟩
  case tickTimer => exact ⟨_, rfl, .tickTimer⟩
  case tickSerial => exact ⟨_, rfl, .tickSerial⟩
  case tickDma => exact ⟨_, rfl, .tickDma⟩
  case tickPpu => exact ⟨_, rfl, .tickPpu⟩
  case tickApu => exact ⟨_, rfl, .tickApu⟩
  case tickHdma => exact ⟨_, rfl, .tickHdma⟩
  case rd | rdVram | rdOam | rdWave | rdDiv | rdTima | rdTma | rdTac | rdNr10 | rdNr11 | rdNr12 | rdNr13 | rdNr14 |
      rdNr21 | rdNr22 | rdNr23 | rdNr24 | rdNr30 | rdNr31 | rdNr32 | rdNr33 | rdNr34 | rdNr41 | rdNr42 | rdNr43 | rdNr44 |
      rdNr50 | rdNr51 | rdNr52 | rdLcdc | rdStat | rdScy | rdScx | rdLy | rdLyc | rdDma | rdBgp | rdObp0 | rdObp1 | rdWy |
      rdWx | rdVbk | rdHdma1 | rdHdma2 | rdHdma3 | rdHdma4 | rdHdma5 | rdBcps | rdBcpd | rdOcps | rdOcpd | rdOpri =>
    exact ⟨_, rfl, .read _ _⟩
  case wr hb a v => exact ⟨_, rfl, .write a v hb fun _ => rfl⟩
  case wrVram hb off v =>
    have hne : placeAddr .vram off.toNat ≠ 0xFF0F#16 := placeAddr_region_ne_if
      (show 0x8000 + off.toNat < 0xFF0F ∨ _ by omega) (show 0x8000 + off.toNat < _ by omega)
    exact ⟨_, rfl, .write _ v hb fun h => absurd h hne⟩
  case wrOam hb k v =>
    have hne : placeAddr .oam k.toNat ≠ 0xFF0F#16 := placeAddr_region_ne_if
      (show 0xFE00 + k.toNat < 0xFF0F ∨ _ by omega) (show 0xFE00 + k.toNat < _ by omega)
    exact ⟨_, rfl, .write _ v hb fun h => absurd h hne⟩
  case wrWave hb k v =>
    have hne : placeAddr .wave k.toNat ≠ 0xFF0F#16 := placeAddr_region_ne_if
      (show _ ∨ 0xFF0F < 0xFF30 by omega) (show 0xFF30 + k.toNat < _ by omega)
    exact ⟨_, rfl, .write _ v hb fun h => absurd h hne⟩
  all_goals exact ⟨_, rfl, .write _ _ _ fun h => absurd h (by decide)⟩

/-- Settles O36: a write of the DMA register blocks OAM, the engine's last tick gives it back with the engine off, and
besides them only `BLOCK` changes the flag. -/
theorem dmaActiveBlocksOam : Obligations.DmaActiveBlocksOam := by
  unfold Obligations.DmaActiveBlocksOam
  intro s t i hinv hi hexec h
  obtain ⟨_, hexec', hby⟩ := exec_by i s
  obtain rfl := Host.Outcome.next.inj (hexec'.symm.trans hexec)
  cases hby with
  | read a hb => exact DmaBlocks.of_eq h (by simp [issueRead_eq]) (by simp [issueRead_eq])
  | write a v hb => exact DmaBlocks.busWrite a v hb h
  | ioTick n ds => exact DmaBlocks.ioTick n ds hinv h
  | block g v hblock =>
    cases g with
    | general => exact h
    | oam =>
      cases v with
      | false => exact absurd hblock hi
      | true => exact fun _ => rfl
  | register hid =>
    simp only [registerHandler]
    split
    · exact h
    · split <;> exact h
  | unregister hid => exact h
  | reset => exact nofun
  | tickTimer => exact DmaBlocks.of_eq h (by simp [tickTimer_frame]) (by simp [tickTimer_frame])
  | tickSerial => exact DmaBlocks.of_eq h (by simp [tickSerial_frame]) (by simp [tickSerial_frame])
  | tickDma => exact DmaBlocks.tickDma hinv.dma h
  | tickPpu => exact DmaBlocks.of_eq h (by simp [tickPpu_frame]) (by simp [tickPpu_frame])
  | tickApu => exact DmaBlocks.of_eq h (by simp [tickApu_frame]) (by simp [tickApu_frame])
  | tickHdma => exact DmaBlocks.tickHdma h

end Sys2Proof.Machine

namespace Sys2Proof.Machine

/-! Interrupt requests (R463 to R465). -/

/-- From `s` to `t` no request is cleared, and bits 4 to 7 of IF stay. -/
structure OnlyRequests (s t : State) : Prop where
  set : ∀ k, s.cpu.ifr.getLsbD k = true → t.cpu.ifr.getLsbD k = true
  high : ∀ k, 4 ≤ k → t.cpu.ifr.getLsbD k = s.cpu.ifr.getLsbD k

section
variable {s t u : State}

theorem OnlyRequests.of_ifr (h : t.cpu.ifr = s.cpu.ifr) : OnlyRequests s t :=
  ⟨fun k hk => h ▸ hk, fun k _ => by rw [h]⟩

theorem OnlyRequests.trans (h : OnlyRequests s t) (h' : OnlyRequests t u) : OnlyRequests s u :=
  ⟨fun k hk => h'.set k (h.set k hk), fun k hk => (h'.high k hk).trans (h.high k hk)⟩

/-- Requests of the interrupts 0 to 3. -/
theorem OnlyRequests.of_or {m : Byte} (hm : m.toNat < 16) (h : t.cpu.ifr = s.cpu.ifr ||| m) : OnlyRequests s t := by
  refine ⟨fun k hk => by simp [h, hk], fun k hk => ?_⟩
  have hbit : m.getLsbD k = false := by
    have hpow : 2 ^ 4 ≤ 2 ^ k := Nat.pow_le_pow_right (by decide) hk
    rw [BitVec.getLsbD, Nat.testBit_lt_two_pow (Nat.lt_of_lt_of_le hm hpow)]
  rw [h, BitVec.getLsbD_or, hbit, Bool.or_false]

/-- A write that ends in the STAT line's update may request interrupt 1 (R190). -/
theorem updateStatLine_requests (p : Ppu) (s : State) : OnlyRequests s (updateStatLine (s.setPpu p)) := by
  have hcpu := updateStatLine_cpu (s.setPpu p)
  split at hcpu
  · exact .of_or (m := 2#8) (by decide) (by rw [hcpu]; rfl)
  · exact .of_ifr (by rw [hcpu]; rfl)

/-! The ticks. -/

theorem tickTimer_requests (s : State) : OnlyRequests s (tickTimer s) := by
  have hcpu := tickTimer_cpu_eq s
  split at hcpu
  · exact .of_or (m := 0x04#8) (by decide) (by rw [hcpu])
  · exact .of_ifr (by rw [hcpu])

theorem tickSerial_requests (s : State) : OnlyRequests s (tickSerial s) := by
  obtain ⟨-, t, ht, -, hcpu⟩ := tickSerialEffect s
  obtain rfl := Host.Outcome.next.inj ht
  obtain hcpu | hcpu := hcpu
  · exact .of_ifr (by rw [hcpu])
  · exact .of_or (m := 0x08#8) (by decide) (by rw [hcpu])

theorem tickPpu_requests (h : PpuInv s.ppu) : OnlyRequests s (tickPpu s) := by
  cases he : s.ppu.lcdEnabled with
  | false => exact .of_ifr (by simp [tickPpu, he])
  | true =>
    have hcpu := tickPpu_cpu_of_enabled h he
    rw [BitVec.or_assoc] at hcpu
    refine .of_or ?_ (congrArg Cpu.ifr hcpu)
    split <;> split <;> decide

/-- With the default map a write inside VRAM or OAM reaches no register of the CPU. -/
theorem busWrite_region_cpu (hm : s.cfg.baseOverride = []) {q : Place} (hq : q = .vram ∨ q = .oam) {a : Addr}
    (ha : covers q.defaultBase q.size a = true) (v : Byte) : (busWrite a v false s).cpu = s.cpu := by
  obtain hb | ⟨off, hb⟩ := busWrite_covered hm ha v false
  · rw [hb]
  · rw [hb]
    obtain rfl | rfl := hq <;> simp only [writePlace] <;> split <;> rfl

/-- The OAM DMA engine writes OAM. -/
theorem tickDma_cpu (hm : s.cfg.baseOverride = []) (h : DmaInv s.dma) : (tickDma s).cpu = s.cpu := by
  obtain ⟨u, d, b, ht, hu, -⟩ := tickDma_cases h
  rw [ht]
  show u.cpu = s.cpu
  obtain rfl | ⟨ha, h4, h0, rfl⟩ := hu
  · rfl
  · have hwrites := h.writes ha
    have hcycle := h.cycle
    rw [State.dmaWritten, base_default hm]
    exact busWrite_region_cpu hm (.inr rfl) (covers_placeAddr (p := .oam) (show s.dma.writeIdx < 160 by omega)) _

theorem covers_vram_of_sub_lt {a : Addr} (ha : (a - Place.vram.defaultBase).toNat < 0x2000) :
    covers (Place.vram).defaultBase (Place.vram).size a = true := by
  rw [covers_iff]
  simp only [Place.defaultBase, Place.size, BitVec.toNat_sub, BitVec.toNat_ofNat] at ha ⊢
  omega

/-- The HDMA engine writes VRAM. -/
theorem tickHdma_cpu (hm : s.cfg.baseOverride = []) (h : HdmaInv (s.cfg.base .vram) s.hdma) :
    (tickHdma s).cpu = s.cpu := by
  simp only [tickHdma]
  split
  · rfl
  · rfl
  · split <;> rfl
  · split <;> rfl
  · simp [hdmaReadStep]
  · next hs =>
    have hdst := h.dst (by simp [Hdma.busy, hs])
    rw [base_default hm] at hdst
    exact busWrite_region_cpu hm (.inl rfl) (covers_vram_of_sub_lt hdst) _

/-! The writes of the bus. -/

theorem writePlace_requests {p : Place} (hp : p ≠ .ifReg) (off : Nat) (a : Addr) (v : Byte) (hb : Bool) (s : State) :
    OnlyRequests s (writePlace p off a v hb s) := by
  cases p
  case ifReg => exact absurd rfl hp
  case vram => simp only [writePlace]; split <;> exact .of_ifr rfl
  case oam => simp only [writePlace]; split <;> exact .of_ifr rfl
  case lcdc =>
    simp only [writePlace, writeLcdc]
    split
    · exact updateStatLine_requests _ s
    · split
      · exact updateStatLine_requests _ s
      · exact .of_ifr rfl
  case stat => exact updateStatLine_requests _ s
  case lyc => exact updateStatLine_requests _ s
  case dma => exact .of_ifr (by rw [writePlace, writeDma_eq]; rfl)
  all_goals exact .of_ifr rfl

/-- With the default map IF stands at its own address only. -/
theorem busWrite_requests (hm : s.cfg.baseOverride = []) {a : Addr} (ha : a ≠ 0xFF0F#16) (v : Byte) (hb : Bool) :
    OnlyRequests s (busWrite a v hb s) := by
  obtain h | ⟨p, off, hr, -, h⟩ := busWrite_cases a v hb s
  · exact .of_ifr (by rw [h])
  · rw [h]
    refine writePlace_requests ?_ off a v hb s
    rintro rfl
    obtain ⟨_, _, _, _, hlow, hhigh⟩ := routeOwner_deliver (route_deliver hr)
    rw [base_default hm] at hlow hhigh
    simp only [Place.defaultBase, Place.size, BitVec.toNat_ofNat] at hlow hhigh
    exact ha (BitVec.eq_of_toNat_eq (show a.toNat = 0xFF0F by omega))

theorem ioTick_requests (hm : s.cfg.baseOverride = []) (hi : Inv s) (n : Nat) (ds : Bool) : OnlyRequests s (ioTick n ds s) := by
  have hall : Inv (ioTick n ds s) ∧ (ioTick n ds s).cfg.baseOverride = [] ∧ OnlyRequests s (ioTick n ds s) := by
    refine ioTick_keeps (P := fun t => Inv t ∧ t.cfg.baseOverride = [] ∧ OnlyRequests s t)
      (fun t ⟨hi, hm, h⟩ => ⟨hi.tickTimer, by rwa [(tickTimer_frame t).1], h.trans (tickTimer_requests t)⟩)
      (fun t ⟨hi, hm, h⟩ => ⟨hi.tickSerial, by rwa [(tickSerial_frame t).1], h.trans (tickSerial_requests t)⟩)
      (fun t ⟨hi, hm, h⟩ => ⟨hi.tickDma, by rwa [tickDma_cfg], h.trans (.of_ifr (by rw [tickDma_cpu hm hi.dma]))⟩)
      (fun t ⟨hi, hm, h⟩ => ⟨hi.tickPpu, by rwa [(tickPpu_frame t).1], h.trans (tickPpu_requests hi.ppu)⟩)
      (fun t ⟨hi, hm, h⟩ => ⟨hi.tickApu, by rwa [(tickApu_frame t).1], h.trans (.of_ifr (by simp [tickApu_frame]))⟩)
      (fun t ⟨hi, hm, h⟩ => ⟨hi.tickHdma, by rwa [tickHdma_cfg], h.trans (.of_ifr (by rw [tickHdma_cpu hm hi.hdma]))⟩)
      (fun b t ⟨hi, hm, h⟩ => ⟨hi.setHalfPhase b, hm, h.trans (.of_ifr rfl)⟩) n ds ⟨hi, hm, .of_ifr rfl⟩
  exact hall.2.2

theorem ExecBy.requests {i : Instr} (h : ExecBy i s t) (hm : s.cfg.baseOverride = []) (hi : Inv s)
    (hif : ∀ hb v, i ≠ .wr hb 0xFF0F#16 v) : OnlyRequests s t := by
  cases h with
  | read a hb => exact .of_ifr (by rw [issueRead_eq]; rfl)
  | write a v hb hwr => exact busWrite_requests hm (fun ha => hif hb v (ha ▸ hwr ha)) v hb
  | ioTick n ds => exact ioTick_requests hm hi n ds
  | block g v => exact .of_ifr rfl
  | register hid =>
    simp only [registerHandler]
    split
    · exact .of_ifr rfl
    · split <;> exact .of_ifr rfl
  | unregister hid => exact .of_ifr rfl
  | reset => exact .of_ifr rfl
  | tickTimer => exact tickTimer_requests s
  | tickSerial => exact tickSerial_requests s
  | tickDma => exact .of_ifr (by rw [tickDma_cpu hm hi.dma])
  | tickPpu => exact tickPpu_requests hi.ppu
  | tickApu => exact .of_ifr (by simp [tickApu_frame])
  | tickHdma => exact .of_ifr (by rw [tickHdma_cpu hm hi.hdma])

end

/-- Settles O55: the ticks and the register writes set bits of IF and clear none; the engines' writes reach OAM and VRAM
only, and no other write than that of IF stands at its address. -/
theorem interruptRequestsOnlySet : Obligations.InterruptRequestsOnlySet := by
  unfold Obligations.InterruptRequestsOnlySet
  intro s t i hmap hi hexec hif
  obtain ⟨_, hexec', hby⟩ := exec_by i s
  obtain rfl := Host.Outcome.next.inj (hexec'.symm.trans hexec)
  have hrequests := hby.requests hmap.1 hi hif
  refine ⟨hrequests.set, hrequests.high, ?_⟩
  rintro (rfl | rfl | rfl) <;> obtain rfl := Host.Outcome.next.inj hexec'
  · simp [tickApu_frame]
  · exact tickDma_cpu hmap.1 hi.dma
  · exact tickHdma_cpu hmap.1 hi.hdma

end Sys2Proof.Machine

namespace Sys2Proof.Machine

/-! The sweep clock (R375, R381). -/

/-- The next frequency of a sweep (R375). -/
def sweepNext (nr10 : Byte) (shadow : Nat) : Nat :=
  if nr10.getLsbD 3 = true then shadow - shadow / 2 ^ (nr10.toNat % 8) else shadow + shadow / 2 ^ (nr10.toNat % 8)

theorem Apu.sweepCalc_eq (a : Apu) : a.sweepCalc = sweepNext a.nr10 a.sweep.shadow.toNat := by
  rw [sweepCalc, sweepNext, sweepShift_eq, Nat.shiftRight_eq_div_pow]
  rfl

/-- The clock computes a frequency: the timer has run out, the sweep is on and its period is not zero (R381). -/
def Apu.sweepComputes (a : Apu) : Prop := a.sweep.timer ≤ 1 ∧ a.sweep.on = true ∧ a.nr10.toNat / 16 % 8 ≠ 0

/-- The sweep's timer counted down, and reloaded where it has run out. -/
def Apu.countSweep (a : Apu) : Apu :=
  { a with sweep := { a.sweep with
      timer := if a.sweep.timer ≤ 1 then (if a.nr10.toNat / 16 % 8 = 0 then 8 else a.nr10.toNat / 16 % 8)
        else a.sweep.timer - 1 } }

section
variable {a : Apu} {b : Bool}

theorem Apu.sweepClock_of_computes (h : a.sweepComputes) : a.sweepClock b = a.countSweep.sweepCompute b := by
  obtain ⟨htimer, hon, hperiod⟩ := h
  have hout : a.sweep.timer - 1 = 0 := by omega
  rw [sweepClock, if_pos hout, countSweep, if_pos htimer]
  simp [hon, sweepPeriod_eq, hperiod, periodOr8]

theorem Apu.sweepClock_of_not_computes (h : ¬ a.sweepComputes) : a.sweepClock b = a.countSweep := by
  rw [sweepClock, countSweep]
  split
  · next hout =>
    have htimer : a.sweep.timer ≤ 1 := by omega
    have hoff : ¬ (a.sweep.on && sweepPeriod a.nr10 != 0) = true := fun hc => h (by
      rw [Bool.and_eq_true, bne_iff_ne, sweepPeriod_eq] at hc
      exact ⟨htimer, hc⟩)
    rw [if_pos htimer, if_neg hoff, periodOr8, sweepPeriod_eq]
  · next hout => rw [if_neg (show ¬ a.sweep.timer ≤ 1 by omega)]

theorem Apu.sweepClock_of_overflow (h : a.sweepComputes) (ho : 2047 < sweepNext a.nr10 a.sweep.shadow.toNat) :
    a.sweepClock b = a.countSweep.disable .ch1 := by
  rw [sweepClock_of_computes h, sweepCompute]
  exact if_pos (decide_eq_true (by rw [sweepCalc_eq]; exact ho))

/-- Without a frequency to store the clock counts, and that is all. -/
theorem Apu.sweepClock_of_still
    (h : ¬ a.sweepComputes ∨ (sweepNext a.nr10 a.sweep.shadow.toNat ≤ 2047 ∧ a.nr10.toNat % 8 = 0)) :
    a.sweepClock b = a.countSweep := by
  by_cases hc : a.sweepComputes
  · obtain ⟨hn, hshift⟩ := h.resolve_left (not_not_intro hc)
    have hno : ¬ sweepOverflow a.countSweep.sweepCalc = true := by
      rw [sweepOverflow, decide_eq_true_eq, sweepCalc_eq]
      exact Nat.not_lt.mpr hn
    have hs : ¬ (sweepShift a.countSweep.nr10 != 0) = true := by
      rw [bne_iff_ne, sweepShift_eq]
      exact not_not_intro hshift
    rw [sweepClock_of_computes hc, sweepCompute, if_neg hno, if_neg hs]
  · exact sweepClock_of_not_computes hc

/-- The frequency is stored, and the optional second check may disable the channel on it (R381). -/
theorem Apu.sweepClock_of_store (h : a.sweepComputes) (hn : sweepNext a.nr10 a.sweep.shadow.toNat ≤ 2047)
    (hs : a.nr10.toNat % 8 ≠ 0) : a.sweepClock b =
      if b = true ∧ 2047 < sweepNext a.nr10 (sweepNext a.nr10 a.sweep.shadow.toNat)
      then (a.countSweep.sweepStore (BitVec.ofNat 11 (sweepNext a.nr10 a.sweep.shadow.toNat))).disable .ch1
      else a.countSweep.sweepStore (BitVec.ofNat 11 (sweepNext a.nr10 a.sweep.shadow.toNat)) := by
  have hcalc : a.countSweep.sweepCalc = sweepNext a.nr10 a.sweep.shadow.toNat := sweepCalc_eq _
  have hno : ¬ sweepOverflow a.countSweep.sweepCalc = true := by
    rw [sweepOverflow, decide_eq_true_eq, hcalc]
    exact Nat.not_lt.mpr hn
  have hshift : (sweepShift a.countSweep.nr10 != 0) = true := by
    rw [bne_iff_ne, sweepShift_eq]
    exact hs
  have hagain : Apu.sweepCalc (a.countSweep.sweepStore (BitVec.ofNat 11 (sweepNext a.nr10 a.sweep.shadow.toNat))) =
      sweepNext a.nr10 (sweepNext a.nr10 a.sweep.shadow.toNat) := by
    have hlt : sweepNext a.nr10 a.sweep.shadow.toNat < 2 ^ 11 := by omega
    rw [sweepCalc_eq]
    exact congrArg (sweepNext a.nr10) ((BitVec.toNat_ofNat _ _).trans (Nat.mod_eq_of_lt hlt))
  rw [sweepClock_of_computes h, sweepCompute, if_neg hno, if_pos hshift]
  simp only [hcalc, hagain, sweepOverflow, Bool.and_eq_true, decide_eq_true_eq]

/-- The registers that a stored frequency leaves, and the shadow. -/
theorem Apu.sweepStore_fields {n : Nat} (hn : n ≤ 2047) :
    (a.sweepStore (BitVec.ofNat 11 n)).sweep.shadow.toNat = n ∧ (a.sweepStore (BitVec.ofNat 11 n)).nr13.toNat = n % 256 ∧
    (a.sweepStore (BitVec.ofNat 11 n)).nr14.toNat = a.nr14.toNat / 8 * 8 + n / 256 := by
  have htoNat : (BitVec.ofNat 11 n).toNat = n := by
    rw [BitVec.toNat_ofNat, Nat.mod_eq_of_lt (show n < 2 ^ 11 by omega)]
  have hhigh : ((BitVec.ofNat 11 n).extractLsb' 8 3).toNat = n / 256 := by
    rw [BitVec.extractLsb'_toNat, htoNat, Nat.shiftRight_eq_div_pow]
    omega
  have hkept : (a.nr14.extractLsb' 3 5).toNat = a.nr14.toNat / 8 := by
    rw [BitVec.extractLsb'_toNat, Nat.shiftRight_eq_div_pow]
    omega
  refine ⟨htoNat, ?_, ?_⟩
  · show ((BitVec.ofNat 11 n).extractLsb' 0 8).toNat = _
    rw [BitVec.extractLsb'_toNat, htoNat, Nat.shiftRight_zero]
  · show (a.nr14.extractLsb' 3 5 ++ (BitVec.ofNat 11 n).extractLsb' 8 3).toNat = _
    rw [BitVec.toNat_append, ← Nat.shiftLeft_add_eq_or_of_lt (BitVec.isLt _), Nat.shiftLeft_eq, hhigh, hkept]

/-- Steps 2 and 6 clock the lengths and then the sweep (R362). -/
theorem Apu.frameStep_of_sweep (h : a.fsStep ∈ [2, 6]) : a.frameStep b =
    { a.lengthClocks.sweepClock b with fsLast := some a.fsStep, fsStep := (a.fsStep + 1) % 8 } := by
  obtain ⟨hlen, hsweep, henv⟩ : lenMask.getLsbD a.fsStep = true ∧ sweepMask.getLsbD a.fsStep = true ∧
      envMask.getLsbD a.fsStep = false := by
    revert h
    generalize a.fsStep = n
    intro h
    fin_cases h <;> decide
  simp only [frameStep, hlen, hsweep, henv, if_true, Bool.false_eq_true, if_false]

/-- The length clock disables a channel whose enabled length expires (R364). -/
theorem Chan.lengthClock_enabled (k : Chan) :
    k.lengthClock.enabled = (k.enabled && !decide (k.lengthEn = true ∧ k.length = 1)) := by
  rw [lengthClock]
  split
  · next h =>
    simp only [Bool.and_eq_true, decide_eq_true_eq] at h
    have hlast : (k.length - 1 != 0) = !decide (k.lengthEn = true ∧ k.length = 1) := by
      rw [Bool.eq_iff_iff, bne_iff_ne, Bool.not_eq_true', decide_eq_false_iff_not]
      simp only [h.1, true_and]
      omega
    rw [hlast]
  · next h =>
    simp only [Bool.and_eq_true, decide_eq_true_eq] at h
    have hno : ¬ (k.lengthEn = true ∧ k.length = 1) := fun hc => h ⟨hc.1, by omega⟩
    rw [decide_eq_false hno, Bool.not_false, Bool.and_true]

/-- Whatever it computes, the clock counts the timer and keeps the sweep's switch (R381). -/
theorem Apu.sweepClock_timer :
    (a.sweepClock b).sweep.timer = a.countSweep.sweep.timer ∧ (a.sweepClock b).sweep.on = a.sweep.on := by
  by_cases hc : a.sweepComputes
  · by_cases ho : 2047 < sweepNext a.nr10 a.sweep.shadow.toNat
    · rw [sweepClock_of_overflow hc ho]
      exact ⟨rfl, rfl⟩
    · by_cases hs : a.nr10.toNat % 8 = 0
      · rw [sweepClock_of_still (.inr ⟨Nat.not_lt.mp ho, hs⟩)]
        exact ⟨rfl, rfl⟩
      · rw [sweepClock_of_store hc (Nat.not_lt.mp ho) hs]
        split <;> exact ⟨rfl, rfl⟩
  · rw [sweepClock_of_not_computes hc]
    exact ⟨rfl, rfl⟩

/-- With no overflow, in the first check or in the optional second, the clock leaves the channel as it is (R381). -/
theorem Apu.sweepClock_c1 (h : ¬ (a.sweepComputes ∧ (2047 < sweepNext a.nr10 a.sweep.shadow.toNat ∨
    (a.nr10.toNat % 8 ≠ 0 ∧ b = true ∧ 2047 < sweepNext a.nr10 (sweepNext a.nr10 a.sweep.shadow.toNat))))) :
    (a.sweepClock b).c1 = a.c1 := by
  by_cases hc : a.sweepComputes
  · obtain ⟨hn, hsecond⟩ := not_or.mp fun ho => h ⟨hc, ho⟩
    by_cases hs : a.nr10.toNat % 8 = 0
    · rw [sweepClock_of_still (.inr ⟨Nat.not_lt.mp hn, hs⟩)]
      rfl
    · rw [sweepClock_of_store hc (Nat.not_lt.mp hn) hs, if_neg fun hboth => hsecond ⟨hs, hboth⟩]
      rfl
  · rw [sweepClock_of_not_computes hc]
    rfl

/-- The APU that a sweep clock meets: the tick counted and the lengths clocked (R361, R362). -/
def Apu.beforeSweep (a : Apu) : Apu := Apu.lengthClocks { a with fsCounter := (a.fsCounter + 1) % 8192 }

end

/-- What a tick leaves of channel 1, the sweep and its registers on steps 2 and 6 (R361, R362). -/
theorem exec_tickApu_of_sweep {s : State} (hdue : (s.apu.fsCounter + 1) % 8192 = 0) (hstep : s.apu.fsStep ∈ [2, 6]) :
    ∃ t a, exec .tickApu s = .next t ∧ a = s.apu.beforeSweep.sweepClock s.cfg.sweepSecondCheck ∧
      t.apu.c1 = a.c1 ∧ t.apu.sweep = a.sweep ∧ t.apu.nr13 = a.nr13 ∧ t.apu.nr14 = a.nr14 := by
  obtain ⟨n, tr, hexec⟩ := exec_tickApu s
  have hseq := (Apu.sequencerTick_of_due s.cfg.sweepSecondCheck hdue).trans
    (Apu.frameStep_of_sweep (a := { s.apu with fsCounter := (s.apu.fsCounter + 1) % 8192 }) hstep)
  obtain ⟨_, _, _, _, _, hgen⟩ :=
    Apu.generatorTick_frame s.cfg.gen s.draws (s.apu.sequencerTick s.cfg.sweepSecondCheck)
  rw [hgen, hseq] at hexec
  exact ⟨_, _, hexec, rfl, rfl, rfl, rfl, rfl⟩

/-- Settles O49: on steps 2 and 6 the tick is a sweep clock after the length clocks. -/
theorem sweepClocked : Obligations.SweepClocked := by
  unfold Obligations.SweepClocked
  intro s hdue hstep
  obtain ⟨t, a, hexec, ha, hc1, hsweep, hnr13, hnr14⟩ := exec_tickApu_of_sweep hdue hstep
  obtain ⟨htimer, hon⟩ := Apu.sweepClock_timer (a := s.apu.beforeSweep) (b := s.cfg.sweepSecondCheck)
  rw [← ha] at htimer hon
  refine ⟨t, hexec, ?_⟩
  rw [hc1, hsweep, hnr13, hnr14]
  refine ⟨htimer, hon, ?overflow, ?store, ?still, ?second, ?kept⟩
  case overflow =>
    intro hc hover
    rw [ha, Apu.sweepClock_of_overflow (a := s.apu.beforeSweep) hc hover]
    exact ⟨rfl, rfl, rfl, rfl⟩
  case store =>
    intro hc hn hs
    rw [ha, Apu.sweepClock_of_store (a := s.apu.beforeSweep) hc hn hs]
    split <;> exact Apu.sweepStore_fields hn
  case still =>
    intro h
    rw [ha, Apu.sweepClock_of_still (a := s.apu.beforeSweep) h]
    exact ⟨rfl, rfl, rfl⟩
  case second =>
    intro hc hn hs hcheck hagain
    rw [ha, Apu.sweepClock_of_store (a := s.apu.beforeSweep) hc hn hs, if_pos ⟨hcheck, hagain⟩]
    rfl
  case kept =>
    intro h
    rw [ha, Apu.sweepClock_c1 (a := s.apu.beforeSweep) h]
    exact Chan.lengthClock_enabled s.apu.c1

end Sys2Proof.Machine

namespace Sys2Proof.Machine

/-! The mixer (R410 to R412). -/

section
variable (cfg : Config) (draw : Nat) (a : Apu)

/-- A muted or disabled channel gives 0 (R411). -/
theorem Apu.amp_eq (c : Channel) : a.amp cfg draw c = cfg.dac.getD
    (if muted cfg.mute c = true ∨ (a.chan c).enabled = false then 0 else (a.genSample cfg.gen draw c).toNat) 0 := by
  rw [amp, out]
  simp only [Bool.or_eq_true, Bool.not_eq_true']
  split <;> rfl

/-- To sum over the channels a side takes is to count 0 for the others. -/
theorem sum_map_filter_takes (takes : Channel → Bool) (f : Channel → Rat) (l : List Channel) :
    ((l.filter takes).map f).sum = (l.map fun c => if takes c = true then f c else 0).sum := by
  induction l with
  | nil => rfl
  | cons c l ih =>
    by_cases h : takes c = true
    · simp only [List.filter_cons_of_pos h, List.map_cons, List.sum_cons, if_pos h, ih]
    · simp only [List.filter_cons_of_neg h, List.map_cons, List.sum_cons, if_neg h, ih, zero_add]

theorem Apu.panned_eq (takes : Channel → Bool) : a.panned cfg draw takes =
    (if takes .ch1 = true then a.amp cfg draw .ch1 else 0) + (if takes .ch2 = true then a.amp cfg draw .ch2 else 0) +
    (if takes .ch3 = true then a.amp cfg draw .ch3 else 0) +
    (if takes .ch4 = true then a.amp cfg draw .ch4 else 0) := by
  rw [panned, sum_map_filter_takes]
  simp only [List.map_cons, List.map_nil, List.sum_cons, List.sum_nil, add_zero, add_assoc]

/-- The master volumes are fields of NR50 (R151). -/
theorem leftVolume_eq (nr50 : Byte) : leftVolume nr50 = nr50.toNat / 16 % 8 := by
  rw [leftVolume, BitVec.extractLsb'_toNat, Nat.shiftRight_eq_div_pow]

theorem rightVolume_eq (nr50 : Byte) : rightVolume nr50 = nr50.toNat % 8 := by
  rw [rightVolume, BitVec.extractLsb'_toNat, Nat.shiftRight_zero]

end

/-! The mixer's part of the tick. -/

/-- The APU that the mixer meets in a tick (R361): the sequencer and the generators have run. -/
def Apu.beforeMixer (cfg : Config) (draw : Nat) (a : Apu) : Apu :=
  (a.sequencerTick cfg.sweepSecondCheck).generatorTick cfg.gen draw

theorem Apu.beforeMixer_sampleCtr (cfg : Config) (draw : Nat) (a : Apu) :
    (a.beforeMixer cfg draw).sampleCtr = a.sampleCtr := by
  obtain ⟨_, _, _, _, _, hgen⟩ := Apu.generatorTick_frame cfg.gen draw (a.sequencerTick cfg.sweepSecondCheck)
  obtain ⟨_, _, _, _, _, _, _, _, _, _, _, _, hseq⟩ := Apu.sequencerTick_frame cfg.sweepSecondCheck a
  rw [beforeMixer, hgen, hseq]

section
variable {s : State}

/-- While the sample counter has not run out, the mixer counts it down (R410). -/
theorem exec_tickApu_of_counting (h : 1 < s.apu.sampleCtr) : exec .tickApu s =
    .next (s.setApu { s.apu.beforeMixer s.cfg s.draws with sampleCtr := s.apu.sampleCtr - 1 }) := by
  have hctr := s.apu.beforeMixer_sampleCtr s.cfg s.draws
  have hleft : (s.apu.beforeMixer s.cfg s.draws).sampleCtr - 1 ≠ 0 := by omega
  rw [← hctr]
  exact congrArg Host.Outcome.next (if_neg hleft)

/-- When it has run out, the mixer reloads it and puts one sample pair out (R410, R412). -/
theorem exec_tickApu_of_sample (h : s.apu.sampleCtr ≤ 1) : exec .tickApu s =
    .next (emit (.sample ((s.apu.beforeMixer s.cfg s.draws).mixLeft s.cfg s.draws)
        ((s.apu.beforeMixer s.cfg s.draws).mixRight s.cfg s.draws))
      (s.setApu { s.apu.beforeMixer s.cfg s.draws with sampleCtr := s.cfg.samplePeriod.val })) := by
  have hctr := s.apu.beforeMixer_sampleCtr s.cfg s.draws
  have hout : (s.apu.beforeMixer s.cfg s.draws).sampleCtr - 1 = 0 := by omega
  exact congrArg Host.Outcome.next (if_pos hout)

end

/-- Settles O51: the mixer's two cases; the new counter is no part of the mix. -/
theorem sampleOutput : Obligations.SampleOutput := by
  unfold Obligations.SampleOutput
  intro s
  by_cases h : 1 < s.apu.sampleCtr
  · exact ⟨_, exec_tickApu_of_counting h, fun _ => ⟨rfl, rfl⟩, fun hout => absurd h (Nat.not_lt.mpr hout)⟩
  · refine ⟨_, exec_tickApu_of_sample (Nat.not_lt.mp h), fun hcount => absurd hcount h, fun _ => ⟨rfl, ?_⟩⟩
    simp only [emit_trace, Apu.mixLeft, Apu.mixRight, volumeOf, leftVolume_eq, rightVolume_eq, Apu.panned_eq, Apu.amp_eq]
    rfl

/-! The range of a sample (R412). -/

theorem default_dac_mem_unit (n : Nat) : 0 ≤ Config.default.dac.getD n 0 ∧ Config.default.dac.getD n 0 ≤ 1 := by
  by_cases h : n < 16
  · revert n
    decide +kernel
  · have hlen : Config.default.dac.length = 16 := rfl
    rw [List.getD_eq_default _ _ (hlen ▸ Nat.not_lt.mp h)]
    exact ⟨le_refl 0, zero_le_one⟩

theorem default_vol_mem_unit : ∀ n < 8, 0 ≤ Config.default.vol.getD n 0 ∧ Config.default.vol.getD n 0 ≤ 1 := by
  decide +kernel

section
variable {cfg : Config} (draw : Nat) (a : Apu)

/-- Four channels of at most 1 each. -/
theorem Apu.panned_mem (hdac : cfg.dac = Config.default.dac) (takes : Channel → Bool) :
    0 ≤ a.panned cfg draw takes ∧ a.panned cfg draw takes ≤ 4 := by
  have hside : ∀ c, 0 ≤ (if takes c = true then a.amp cfg draw c else 0) ∧
      (if takes c = true then a.amp cfg draw c else 0) ≤ 1 := by
    intro c
    split
    · rw [amp, hdac]
      exact default_dac_mem_unit _
    · exact ⟨le_refl 0, zero_le_one⟩
  obtain ⟨h1, h1'⟩ := hside .ch1
  obtain ⟨h2, h2'⟩ := hside .ch2
  obtain ⟨h3, h3'⟩ := hside .ch3
  obtain ⟨h4, h4'⟩ := hside .ch4
  rw [panned_eq]
  constructor <;> linarith

/-- A master volume of at most 1 times four amplitudes of at most 1, over 4. -/
theorem Apu.mixSide_mem_unit (hdac : cfg.dac = Config.default.dac) (hvol : cfg.vol = Config.default.vol)
    {n : Nat} (hn : n < 8) (takes : Channel → Bool) :
    0 ≤ volumeOf cfg n * a.panned cfg draw takes / 4 ∧ volumeOf cfg n * a.panned cfg draw takes / 4 ≤ 1 := by
  obtain ⟨hp, hp'⟩ := a.panned_mem draw hdac takes
  obtain ⟨hv, hv'⟩ : 0 ≤ volumeOf cfg n ∧ volumeOf cfg n ≤ 1 := by
    rw [volumeOf, hvol]
    exact default_vol_mem_unit n hn
  have hprod : volumeOf cfg n * a.panned cfg draw takes ≤ 1 * 4 := mul_le_mul hv' hp' hp zero_le_one
  exact ⟨div_nonneg (mul_nonneg hv hp) (by norm_num), by linarith⟩

end

/-- Settles O52: the one sample a tick can put out is the mix, and each side of the mix is in the range. -/
theorem samplesInUnitRange : Obligations.SamplesInUnitRange := by
  unfold Obligations.SamplesInUnitRange
  intro s t hdac hvol hexec l r htrace
  by_cases h : 1 < s.apu.sampleCtr
  · rw [exec_tickApu_of_counting h] at hexec
    obtain rfl := Host.Outcome.next.inj hexec
    exact absurd htrace.symm (by simp)
  · rw [exec_tickApu_of_sample (Nat.not_lt.mp h)] at hexec
    obtain rfl := Host.Outcome.next.inj hexec
    rw [emit_trace] at htrace
    obtain ⟨rfl, rfl⟩ : _ = l ∧ _ = r := by simpa using htrace
    have hleft := (s.apu.beforeMixer s.cfg s.draws).mixSide_mem_unit s.draws hdac hvol
      (n := leftVolume (s.apu.beforeMixer s.cfg s.draws).nr50) (BitVec.isLt _)
    have hright := (s.apu.beforeMixer s.cfg s.draws).mixSide_mem_unit s.draws hdac hvol
      (n := rightVolume (s.apu.beforeMixer s.cfg s.draws).nr50) (BitVec.isLt _)
    exact ⟨(hleft _).1, (hleft _).2, (hright _).1, (hright _).2⟩

end Sys2Proof.Machine
